-- ==== Sys2Proof/Word.lean ====
section
/-! DEFINITION. The two word types of the block (00_scope.md R8, R9). -/

namespace Sys2Proof

/-- A byte: bit 0 is the least significant bit (R8). -/
abbrev Byte := BitVec 8

/-- A 16-bit value: a CRC word, `RES`, a channel operand (R20, R72). -/
abbrev Word := BitVec 16

end Sys2Proof
end

