-- ==== Sys2Proof/Machine/Params.lean ====
section
/-! DEFINITION. The parameters the source fixes (00_scope.md R6), each a named constant (93_implementation_defined.md I6). -/

namespace Sys2Proof.Machine

/-- `CRC_POLY` (R6). -/
def crcPoly : Word := 0x1021#16
/-- `CRC_INIT` (R6, 90_conflicts.md C5). -/
def crcInit : Word := 0xB5D2#16
/-- `N_SCRAMBLE` (R6); the type of `Parameters.scramble` has the same number. -/
def nScramble : Nat := 35
/-- `ALEN_MIN` (R6). -/
def alenMin : Nat := 3
/-- `ALEN_MAX` (R6). -/
def alenMax : Nat := 5
/-- `MAX_DATA` (R6): most data bytes of one exchange. -/
def maxData : Nat := 31
/-- Fewest bytes of a frame (43_bus.md R173). -/
def minFrame : Nat := 4
/-- `CHAN_MAX` (R6). -/
def chanMax : Int := 10000
/-- `CX10_CENTER` (R6). -/
def cx10Center : Int := 1500
/-- `CX10_SPAN` (R6). -/
def cx10Span : Int := 500
/-- `SYMAX_MAG` (R6). -/
def symaxMag : Int := 127
/-- `YD717_SCALE` (R6). -/
def yd717Scale : Int := 255
/-- `YD717_OFFSET` (R6). -/
def yd717Offset : Int := 256
/-- `YD717_CSUM_N` (R6). -/
def yd717CsumN : Nat := 8

end Sys2Proof.Machine
end

