-- ==== Sys2Proof/Syntax.lean ====
section
/-! DEFINITION. The instructions: the 16 commands of the command port (30_encoding.md R73) and the 8 opcodes of
the control bus (30_encoding.md R77), and the two forms in which they are spelled. -/

namespace Sys2Proof

/-- The code byte of BUS_ACTIVATE: 30_encoding.md R77 gives these two and no other. -/
inductive ActivateCode where
  /-- 0x73: "dynamic-payload/ack-payload features" (R177). -/
  | features
  /-- 0x53: "the alternate-chip register-bank toggle" (R177). -/
  | bankToggle
  deriving DecidableEq, Repr

/-- One constructor per row of the opcode table. A count operand (`LEN`, `N`) is the length of its byte list (R71, R72);
`ch` is the 16-bit channel operand, read as two's complement by the meanings (R72). -/
inductive Instr where
  /-- SET_TX_ADDR, format A (R110). -/
  | setTxAddr (a : List Byte)
  /-- SET_RX_ADDR, format A (R111). -/
  | setRxAddr (a : List Byte)
  /-- CONFIGURE, format C (R112). -/
  | configure (b : Byte)
  /-- WRITE_PAYLOAD, format P (R113). -/
  | writePayload (m : List Byte)
  /-- READ_PAYLOAD, format R: `LEN` alone (R114). -/
  | readPayload (len : Byte)
  /-- Q_CX10, format Q (R141). -/
  | qCx10 (ch : Word)
  /-- Q_SYMAX, format Q (R142). -/
  | qSymax (ch : Word)
  /-- Q_SYMAX_THR, format Q (R143). -/
  | qSymaxThr (ch : Word)
  /-- Q_YD717, format Q (R144). -/
  | qYd717 (ch : Word)
  /-- Q_FLAG, format Q (R145). -/
  | qFlag (ch : Word)
  /-- Q_MODE, format Q (R146). -/
  | qMode (ch : Word)
  /-- CK_SYMAX_XOR, format K (R151). -/
  | ckSymaxXor (d : List Byte)
  /-- CK_SYMAX_ADD, format K (R152). -/
  | ckSymaxAdd (d : List Byte)
  /-- CK_YD717, format K (R153). -/
  | ckYd717 (d : List Byte)
  /-- CRC16_RAW, format K (R115). -/
  | crc16Raw (d : List Byte)
  /-- BITREV8, format C (R116). -/
  | bitrev8 (b : Byte)
  /-- BUS_RREG: register number, bytes clocked in (R175). -/
  | busRreg (r : BitVec 5) (nin : Nat)
  /-- BUS_WREG: register number, bytes sent (R172). -/
  | busWreg (r : BitVec 5) (out : List Byte)
  /-- BUS_RPAYLOAD: number of bytes clocked in (R174). -/
  | busRpayload (nin : Nat)
  /-- BUS_WPAYLOAD: the frame bytes sent (R173). -/
  | busWpayload (out : List Byte)
  /-- BUS_FLUSH_TX (R176). -/
  | busFlushTx
  /-- BUS_FLUSH_RX (R176). -/
  | busFlushRx
  /-- BUS_ACTIVATE: one code byte, of the two R77 gives (R177). -/
  | busActivate (code : ActivateCode)
  /-- BUS_NOP (R178). -/
  | busNop
  deriving DecidableEq, Repr

/-- The sixteen command opcodes, by name (R73). -/
inductive Cmd where
  | setTxAddr | setRxAddr | configure | writePayload | readPayload
  | qCx10 | qSymax | qSymaxThr | qYd717 | qFlag | qMode
  | ckSymaxXor | ckSymaxAdd | ckYd717 | crc16Raw | bitrev8
  deriving DecidableEq, Repr

/-- The six command formats (R71). -/
inductive Format where
  | a | c | p | r | q | k
  deriving DecidableEq, Repr

/-- How an instruction is spelled. The two spaces overlap (0x20 is CK_SYMAX_XOR on the command port and BUS_WREG of
register 0 on the bus), so the space is part of the spelling. -/
inductive Wire where
  /-- One byte string on the command port (R70). -/
  | command (bytes : List Byte)
  /-- One exchange on the control bus: opcode byte, bytes sent, number of bytes clocked in (R77, R170). -/
  | bus (op : Byte) (out : List Byte) (nin : Nat)
  deriving DecidableEq, Repr

/-- Why a spelling is no instruction. -/
inductive DecodeError where
  /-- Byte 0 is no opcode of R73 (R74). -/
  | illegalOpcode
  /-- The string is empty or has not the length its opcode requires (R70). -/
  | cmdLength
  /-- The bus opcode byte is in none of R77's patterns (R78). -/
  | busOpcode
  /-- The data of the bus exchange is not what its opcode carries (R77, R170, R172 to R178). -/
  | busData
  deriving DecidableEq, Repr

end Sys2Proof
end

