-- ==== Sys2Proof/WellFormed.lean ====
section
/-! DEFINITION. Which instruction terms have a spelling: counts of 0 to 255 on the command port (30_encoding.md R72),
at most 31 data bytes in a bus exchange (30_encoding.md R77, 43_bus.md R170 to R174). -/

namespace Sys2Proof

/-- The check. A count that a command does not admit (an address of 7 bytes) is well-formed: its rule faults (R72). -/
def Instr.wellFormed : Instr → Bool
  | .setTxAddr a | .setRxAddr a => decide (a.length ≤ 255)
  | .writePayload m => decide (m.length ≤ 255)
  | .ckSymaxXor d | .ckSymaxAdd d | .ckYd717 d | .crc16Raw d => decide (d.length ≤ 255)
  | .configure _ | .readPayload _ | .bitrev8 _ => true
  | .qCx10 _ | .qSymax _ | .qSymaxThr _ | .qYd717 _ | .qFlag _ | .qMode _ => true
  | .busRreg _ nin | .busRpayload nin => decide (nin ≤ Machine.maxData)
  | .busWreg _ out => decide (1 ≤ out.length ∧ out.length ≤ Machine.maxData)
  | .busWpayload out => decide (Machine.minFrame ≤ out.length ∧ out.length ≤ Machine.maxData)
  | .busFlushTx | .busFlushRx | .busActivate _ | .busNop => true

/-- `Instr.wellFormed` as a proposition. -/
abbrev Instr.WellFormed (i : Instr) : Prop := i.wellFormed = true

end Sys2Proof
end

