-- ==== Sys2Proof/Decode.lean ====
section
/-! DEFINITION. The decoder, total on every command string and every bus exchange (30_encoding.md R70 to R75, R77),
and after it the encoder and the assembler (R76). -/

namespace Sys2Proof

/-! ### The opcode map -/

/-- The opcode byte of a command (R73). -/
def Cmd.byte : Cmd → Byte
  | .setTxAddr => 0x01#8
  | .setRxAddr => 0x02#8
  | .configure => 0x03#8
  | .writePayload => 0x04#8
  | .readPayload => 0x05#8
  | .qCx10 => 0x10#8
  | .qSymax => 0x11#8
  | .qSymaxThr => 0x12#8
  | .qYd717 => 0x13#8
  | .qFlag => 0x14#8
  | .qMode => 0x15#8
  | .ckSymaxXor => 0x20#8
  | .ckSymaxAdd => 0x21#8
  | .ckYd717 => 0x22#8
  | .crc16Raw => 0x30#8
  | .bitrev8 => 0x31#8

/-- The rows of R73, in its order. -/
def Cmd.all : List Cmd :=
  [.setTxAddr, .setRxAddr, .configure, .writePayload, .readPayload,
   .qCx10, .qSymax, .qSymaxThr, .qYd717, .qFlag, .qMode,
   .ckSymaxXor, .ckSymaxAdd, .ckYd717, .crc16Raw, .bitrev8]

/-- The command an opcode byte names; none for an illegal opcode (R74). -/
def Cmd.ofByte (b : Byte) : Option Cmd := Cmd.all.find? fun c => c.byte == b

/-- The format of a command (R73). -/
def Cmd.format : Cmd → Format
  | .setTxAddr | .setRxAddr => .a
  | .configure | .bitrev8 => .c
  | .writePayload => .p
  | .readPayload => .r
  | .qCx10 | .qSymax | .qSymaxThr | .qYd717 | .qFlag | .qMode => .q
  | .ckSymaxXor | .ckSymaxAdd | .ckYd717 | .crc16Raw => .k

/-- The length a command string must have, from its format and byte 1 (R71, R75). -/
def Format.length (f : Format) (byte1 : Byte) : Nat :=
  match f with
  | .a | .p | .k => 2 + byte1.toNat
  | .c | .r => 2
  | .q => 3

/-! ### Command operands (R71, R72) -/

/-- A count and that many bytes: formats A, P and K. -/
def countedOperand : List Byte → Option (List Byte)
  | n :: a => if a.length = n.toNat then some a else none
  | [] => none

/-- One byte: formats C and R. -/
def byteOperand : List Byte → Option Byte
  | [b] => some b
  | _ => none

/-- The channel, `(byte2 << 8) | byte1`: format Q (R72). -/
def channelOperand : List Byte → Option Word
  | [lo, hi] => some (hi.setWidth 16 <<< 8 ||| lo.setWidth 16)
  | _ => none

/-- The instruction an opcode and the bytes after it spell; none when the length is wrong. -/
def Cmd.decodeOperands (c : Cmd) (rest : List Byte) : Option Instr :=
  match c with
  | .setTxAddr => (countedOperand rest).map .setTxAddr
  | .setRxAddr => (countedOperand rest).map .setRxAddr
  | .configure => (byteOperand rest).map .configure
  | .writePayload => (countedOperand rest).map .writePayload
  | .readPayload => (byteOperand rest).map .readPayload
  | .qCx10 => (channelOperand rest).map .qCx10
  | .qSymax => (channelOperand rest).map .qSymax
  | .qSymaxThr => (channelOperand rest).map .qSymaxThr
  | .qYd717 => (channelOperand rest).map .qYd717
  | .qFlag => (channelOperand rest).map .qFlag
  | .qMode => (channelOperand rest).map .qMode
  | .ckSymaxXor => (countedOperand rest).map .ckSymaxXor
  | .ckSymaxAdd => (countedOperand rest).map .ckSymaxAdd
  | .ckYd717 => (countedOperand rest).map .ckYd717
  | .crc16Raw => (countedOperand rest).map .crc16Raw
  | .bitrev8 => (byteOperand rest).map .bitrev8

/-- A command string (R70): ILLEGAL_OPCODE goes before CMD_LENGTH (60_exceptions.md R203). -/
def decodeCommand : List Byte → Except DecodeError Instr
  | [] => .error .cmdLength
  | op :: rest =>
    match Cmd.ofByte op with
    | none => .error .illegalOpcode
    | some c =>
      match c.decodeOperands rest with
      | some i => .ok i
      | none => .error .cmdLength

/-! ### The control bus (R77) -/

/-- Read register: `0x00 | (0x1F & r)`. -/
def rregOpcode (r : Byte) : Byte := 0x00#8 ||| (0x1F#8 &&& r)
/-- Write register: `0x20 | (0x1F & r)`; a register number above 31 is reduced (43_bus.md R172). -/
def wregOpcode (r : Byte) : Byte := 0x20#8 ||| (0x1F#8 &&& r)
/-- Read payload. -/
def rpayloadOpcode : Byte := 0x61#8
/-- Write payload. -/
def wpayloadOpcode : Byte := 0xA0#8
/-- Flush TX. -/
def flushTxOpcode : Byte := 0xE1#8
/-- Flush RX. -/
def flushRxOpcode : Byte := 0xE2#8
/-- Feature unlock. -/
def activateOpcode : Byte := 0x50#8
/-- No-op, status probe. -/
def nopOpcode : Byte := 0xFF#8

/-- The byte of a BUS_ACTIVATE code. -/
def ActivateCode.byte : ActivateCode → Byte
  | .features => 0x73#8
  | .bankToggle => 0x53#8

/-- The code a byte names; none for a byte that is neither code of R77. -/
def ActivateCode.ofByte (b : Byte) : Option ActivateCode :=
  if b = 0x73#8 then some .features else if b = 0x53#8 then some .bankToggle else none

/-- `i` when the exchange's data is as its opcode carries it. -/
def busIf (ok : Bool) (i : Instr) : Except DecodeError Instr := if ok then .ok i else .error .busData

/-- A bus exchange as the transceiver (or a reader of `BUSLOG`) decodes it (R77, R78); which data each opcode admits is log
entry 7. -/
def decodeBus (op : Byte) (out : List Byte) (nin : Nat) : Except DecodeError Instr :=
  if op &&& 0xE0#8 = 0x00#8 then
    busIf (out.length = 0 && nin ≤ Machine.maxData) (.busRreg (op.setWidth 5) nin)
  else if op &&& 0xE0#8 = 0x20#8 then
    busIf (1 ≤ out.length && out.length ≤ Machine.maxData && nin = 0) (.busWreg (op.setWidth 5) out)
  else if op = rpayloadOpcode then
    busIf (out.length = 0 && nin ≤ Machine.maxData) (.busRpayload nin)
  else if op = wpayloadOpcode then
    busIf (Machine.minFrame ≤ out.length && out.length ≤ Machine.maxData && nin = 0) (.busWpayload out)
  else if op = flushTxOpcode then
    busIf (out.length = 0 && nin = 0) .busFlushTx
  else if op = flushRxOpcode then
    busIf (out.length = 0 && nin = 0) .busFlushRx
  else if op = activateOpcode then
    match out.map ActivateCode.ofByte, nin with
    | [some code], 0 => .ok (.busActivate code)
    | _, _ => .error .busData
  else if op = nopOpcode then
    busIf (out.length = 0 && nin = 0) .busNop
  else .error .busOpcode

/-- The decoder. -/
def decode : Wire → Except DecodeError Instr
  | .command bytes => decodeCommand bytes
  | .bus op out nin => decodeBus op out nin

/-! ### The encoder (R71 to R73, R77) -/

/-- A count and its bytes, behind an opcode. -/
def encodeCounted (c : Cmd) (a : List Byte) : Wire := .command (c.byte :: BitVec.ofNat 8 a.length :: a)

/-- One byte behind an opcode. -/
def encodeByte (c : Cmd) (b : Byte) : Wire := .command [c.byte, b]

/-- A channel behind an opcode: `v[7:0]`, then `v[15:8]`. -/
def encodeChannel (c : Cmd) (v : Word) : Wire :=
  .command [c.byte, v.extractLsb' 0 8, v.extractLsb' 8 8]

/-- The spelling of an instruction. -/
def encode : Instr → Wire
  | .setTxAddr a => encodeCounted .setTxAddr a
  | .setRxAddr a => encodeCounted .setRxAddr a
  | .configure b => encodeByte .configure b
  | .writePayload m => encodeCounted .writePayload m
  | .readPayload len => encodeByte .readPayload len
  | .qCx10 ch => encodeChannel .qCx10 ch
  | .qSymax ch => encodeChannel .qSymax ch
  | .qSymaxThr ch => encodeChannel .qSymaxThr ch
  | .qYd717 ch => encodeChannel .qYd717 ch
  | .qFlag ch => encodeChannel .qFlag ch
  | .qMode ch => encodeChannel .qMode ch
  | .ckSymaxXor d => encodeCounted .ckSymaxXor d
  | .ckSymaxAdd d => encodeCounted .ckSymaxAdd d
  | .ckYd717 d => encodeCounted .ckYd717 d
  | .crc16Raw d => encodeCounted .crc16Raw d
  | .bitrev8 b => encodeByte .bitrev8 b
  | .busRreg r nin => .bus (rregOpcode (r.setWidth 8)) [] nin
  | .busWreg r out => .bus (wregOpcode (r.setWidth 8)) out 0
  | .busRpayload nin => .bus rpayloadOpcode [] nin
  | .busWpayload out => .bus wpayloadOpcode out 0
  | .busFlushTx => .bus flushTxOpcode [] 0
  | .busFlushRx => .bus flushRxOpcode [] 0
  | .busActivate code => .bus activateOpcode [code.byte] 0
  | .busNop => .bus nopOpcode [] 0

/-! ### The words of the opcode table -/

/-- Byte `k` of a table word of `nbits` bits, byte 0 the opcode; every bit above `nbits` is 0. -/
def tableByte (nbits w k : Nat) : Byte := BitVec.ofNat 8 ((w % 2 ^ nbits) / 2 ^ (8 * k))

/-- Fewest bytes sent in an exchange with this opcode (R172, R173, R177). -/
def minBusOut (op : Byte) : Nat :=
  if op &&& 0xE0#8 = 0x20#8 then 1
  else if op = wpayloadOpcode then Machine.minFrame
  else if op = activateOpcode then 1
  else 0

/-- Where a table word stands: on the command port when its first byte is a command opcode, else on the bus, with the
fewest data bytes its opcode carries or those the word gives (DESIGN CHOICE, log entry 6). The bits a word does not give are 0, and 0 is no code of BUS_ACTIVATE, so its opcode byte
alone is refused: its table word must give the code byte. -/
def tableWire (nbits w : Nat) : Wire :=
  let op := tableByte nbits w 0
  match Cmd.ofByte op with
  | some c =>
    .command ((List.range (c.format.length (tableByte nbits w 1))).map (tableByte nbits w))
  | none =>
    let n := if minBusOut op = 0 then 0 else max (minBusOut op) (nbits / 8 - 1)
    .bus op ((List.range n).map fun k => tableByte nbits w (k + 1)) 0

/-- The instruction the decoder reads from a table word. -/
def decodeTableWord (nbits w : Nat) : Option Instr :=
  match decode (tableWire nbits w) with
  | .ok i => some i
  | .error _ => none

/-! ### The assembler (R76) -/

/-- A number of an assembly line: a signed decimal or a 0x-form hexadecimal. -/
inductive AsmNum where
  | dec (v : Int)
  | hex (v : Nat)
  deriving DecidableEq, Repr

/-- One assembly line: its mnemonic and its operands, in order. -/
structure AsmLine where
  cmd : Cmd
  operands : List AsmNum
  deriving DecidableEq, Repr

/-- A byte operand: 0 to 255 in either notation. -/
def AsmNum.byte? : AsmNum → Option Byte
  | .dec v => if 0 ≤ v ∧ v ≤ 255 then some (BitVec.ofInt 8 v) else none
  | .hex v => if v ≤ 255 then some (BitVec.ofNat 8 v) else none

/-- A channel operand: a signed decimal or a 16-bit hexadecimal value. -/
def AsmNum.channel? : AsmNum → Option Word
  | .dec v => if -32768 ≤ v ∧ v ≤ 32767 then some (BitVec.ofInt 16 v) else none
  | .hex v => if v ≤ 65535 then some (BitVec.ofNat 16 v) else none

/-- All of a list of byte operands, or none. -/
def asmBytes : List AsmNum → Option (List Byte)
  | [] => some []
  | x :: xs =>
    match x.byte?, asmBytes xs with
    | some b, some bs => some (b :: bs)
    | _, _ => none

/-- The command string of a line (R76): `LEN` and `N` come from the operand count. -/
def assemble (l : AsmLine) : Option (List Byte) :=
  match l.cmd.format with
  | .a | .p | .k =>
    match asmBytes l.operands with
    | some bs => if bs.length ≤ 255 then some (l.cmd.byte :: BitVec.ofNat 8 bs.length :: bs) else none
    | none => none
  | .c | .r =>
    match l.operands with
    | [x] => x.byte?.map fun b => [l.cmd.byte, b]
    | _ => none
  | .q =>
    match l.operands with
    | [x] => x.channel?.map fun v => [l.cmd.byte, v.extractLsb' 0 8, v.extractLsb' 8 8]
    | _ => none

/-- The mnemonic of a command, as R76 writes it. -/
def Cmd.mnemonic : Cmd → List Char
  | .setTxAddr => ['S', 'E', 'T', '_', 'T', 'X', '_', 'A', 'D', 'D', 'R']
  | .setRxAddr => ['S', 'E', 'T', '_', 'R', 'X', '_', 'A', 'D', 'D', 'R']
  | .configure => ['C', 'O', 'N', 'F', 'I', 'G', 'U', 'R', 'E']
  | .writePayload => ['W', 'R', 'I', 'T', 'E', '_', 'P', 'A', 'Y', 'L', 'O', 'A', 'D']
  | .readPayload => ['R', 'E', 'A', 'D', '_', 'P', 'A', 'Y', 'L', 'O', 'A', 'D']
  | .qCx10 => ['Q', '_', 'C', 'X', '1', '0']
  | .qSymax => ['Q', '_', 'S', 'Y', 'M', 'A', 'X']
  | .qSymaxThr => ['Q', '_', 'S', 'Y', 'M', 'A', 'X', '_', 'T', 'H', 'R']
  | .qYd717 => ['Q', '_', 'Y', 'D', '7', '1', '7']
  | .qFlag => ['Q', '_', 'F', 'L', 'A', 'G']
  | .qMode => ['Q', '_', 'M', 'O', 'D', 'E']
  | .ckSymaxXor => ['C', 'K', '_', 'S', 'Y', 'M', 'A', 'X', '_', 'X', 'O', 'R']
  | .ckSymaxAdd => ['C', 'K', '_', 'S', 'Y', 'M', 'A', 'X', '_', 'A', 'D', 'D']
  | .ckYd717 => ['C', 'K', '_', 'Y', 'D', '7', '1', '7']
  | .crc16Raw => ['C', 'R', 'C', '1', '6', '_', 'R', 'A', 'W']
  | .bitrev8 => ['B', 'I', 'T', 'R', 'E', 'V', '8']

/-- The value of a hexadecimal digit, either case; decimal digits first. -/
def hexDigit? (c : Char) : Option Nat :=
  let n := c.toNat
  if 48 ≤ n ∧ n ≤ 57 then some (n - 48)
  else if 65 ≤ n ∧ n ≤ 70 then some (n - 55)
  else if 97 ≤ n ∧ n ≤ 102 then some (n - 87)
  else none

/-- Digits of a base read into an accumulator; none at a character that is no digit of the base. -/
def digits (base acc : Nat) : List Char → Option Nat
  | [] => some acc
  | c :: cs =>
    match hexDigit? c with
    | some d => if d < base then digits base (acc * base + d) cs else none
    | none => none

/-- A number: `-` and decimal digits, decimal digits, or `0x` and hexadecimal digits, with at least one digit. -/
def parseNum : List Char → Option AsmNum
  | '0' :: 'x' :: d :: ds => (digits 16 0 (d :: ds)).map .hex
  | '-' :: d :: ds => (digits 10 0 (d :: ds)).map fun n => .dec (-(n : Int))
  | d :: ds => (digits 10 0 (d :: ds)).map fun n => .dec (n : Int)
  | [] => none

/-- The pieces of a character list between separators; always at least one piece. -/
def pieces (sep : Char) : List Char → List (List Char)
  | [] => [[]]
  | c :: cs =>
    match pieces sep cs with
    | p :: ps => if c = sep then [] :: p :: ps else (c :: p) :: ps
    | [] => [[]]

/-- A piece without the blanks around it. -/
def trimBlanks (l : List Char) : List Char :=
  ((l.dropWhile (· == ' ')).reverse.dropWhile (· == ' ')).reverse

/-- All numbers of the pieces, or none. -/
def parseNums : List (List Char) → Option (List AsmNum)
  | [] => some []
  | p :: ps =>
    match parseNum p, parseNums ps with
    | some n, some ns => some (n :: ns)
    | _, _ => none

/-- The characters up to the first blank, and those after it. -/
def splitWord : List Char → List Char × List Char
  | [] => ([], [])
  | c :: cs => if c = ' ' then ([], cs) else (c :: (splitWord cs).1, (splitWord cs).2)

/-- One line of assembly text: the mnemonic, a blank, operands between commas; no operands is an empty list (blanks and digit
case: log entry 12). -/
def parseLine (t : List Char) : Option AsmLine :=
  match Cmd.all.find? (fun c => c.mnemonic == (splitWord t).1) with
  | none => none
  | some c =>
    match (pieces ',' (splitWord t).2).map trimBlanks with
    | [[]] => some ⟨c, []⟩
    | ps => (parseNums ps).map fun ns => ⟨c, ns⟩

end Sys2Proof
end

