-- ==== Sys2Proof/Config.lean ====
section
/-! DEFINITION. The parameters the source leaves open (00_scope.md R7, 10_state.md R28), held as plain data, and the
two free values: the installed parameters and the bytes the transceiver answers with. -/

namespace Sys2Proof

/-- A function from the clamped axis, -10000..10000, to a byte, as data: `base` below the first threshold, and from
each threshold on the byte beside it. Thresholds rise strictly within -9999..10000, so every function on the axis has
exactly one such list up to steps that change nothing, and every byte listed is taken somewhere. -/
structure StepFn where
  base : Byte
  steps : List (Int × Byte)
  deriving DecidableEq, Repr, Inhabited

/-- The thresholds rise strictly and lie in -9999..10000. -/
def StepFn.legal (f : StepFn) : Bool :=
  decide ((f.steps.map Prod.fst).Pairwise (· < ·)) && f.steps.all fun p => decide (-10000 < p.1 ∧ p.1 ≤ 10000)

/-- The distinct bytes the function takes. -/
def StepFn.values (f : StepFn) : List Byte := (f.base :: f.steps.map Prod.snd).dedup

/-- The open parameters of R7, as a host would give them. -/
structure Parameters where
  /-- `SCRAMBLE`: 35 bytes. -/
  scramble : Vector Byte 35 := Vector.replicate 35 0#8
  /-- `XOROUT`: its length is `N_XOROUT`. -/
  xorout : List Word := [0#16]
  /-- `PREAMBLE`: 5 bytes. -/
  preamble : Vector Byte 5 := Vector.replicate 5 0#8
  /-- `PREFIX`. -/
  leadByte : Byte := 0#8
  /-- `REG_TX_ADDR`. -/
  regTxAddr : Byte := 0#8
  /-- `REG_RX_ADDR`. -/
  regRxAddr : Byte := 0#8
  /-- `REG_CONFIG`. -/
  regConfig : Byte := 0#8
  /-- `CRC_EN_BIT`. -/
  crcEnBit : Byte := 1#8
  /-- `CRC_STRIP_MASK`. -/
  crcStripMask : Byte := 1#8
  /-- `ALEN_ON_RX_SET`. -/
  alenOnRxSet : Bool := false
  /-- `SYMAX_BIAS_XOR`. -/
  symaxBiasXor : Byte := 0#8
  /-- `SYMAX_BIAS_ADD`. -/
  symaxBiasAdd : Byte := 0#8
  /-- `SYMAX_THR_FOLD`. -/
  symaxThrFold : StepFn := { base := 0#8, steps := [] }
  /-- `MODE_SELECT`. -/
  modeSelect : StepFn := { base := 0#8, steps := [(0, 1#8)] }
  deriving DecidableEq, Repr, Inhabited

/-- What R7 and R27 ask of the parameters: `N_XOROUT` ≥ 1, one bit in `CRC_EN_BIT`, `CRC_EN_BIT` within
`CRC_STRIP_MASK`, 2 or 3 values of `MODE_SELECT`. -/
def Parameters.legal (p : Parameters) : Bool :=
  decide (1 ≤ p.xorout.length) &&
  decide (∃ i : Fin 8, p.crcEnBit = 1#8 <<< i.val) &&
  decide (p.crcEnBit &&& p.crcStripMask = p.crcEnBit) &&
  p.symaxThrFold.legal && p.modeSelect.legal &&
  decide (2 ≤ p.modeSelect.values.length ∧ p.modeSelect.values.length ≤ 3)

/-- A configuration: parameters that are legal. One that is not cannot be built (R27: it is refused). -/
structure Config extends Parameters where
  isLegal : toParameters.legal = true := by decide
  deriving DecidableEq, Repr, Inhabited

/-- Configuration time (R27, 70_reset_and_hazards.md R233 step 1): illegal parameters are refused. -/
def Config.accept (p : Parameters) : Option Config :=
  if h : p.legal = true then some { toParameters := p, isLegal := h } else none

/-- The configuration the block is installed with. FREE VALUE (log entry 1): no body, so nothing proves a value of it;
that it is legal is carried by its type. -/
opaque Config.installed : Config

/-- The byte the transceiver answers a draw with, by the number of the draw (43_bus.md R171). FREE VALUE
(log entry 4): no body. -/
opaque Config.freeByte : Nat → Byte

end Sys2Proof
end

