-- ==== Sys2Proof/Machine/State.lean ====
section
/-! DEFINITION. The state: the registers of 10_state.md R20, the tables of R28, and the agents around the block
(the host's inputs not yet taken, the transceiver's answers). The reset state (R36). -/

namespace Sys2Proof.Machine

/-- One exchange on the control bus (43_bus.md R170). -/
structure Exchange where
  /-- The opcode byte. -/
  op : Byte
  /-- The bytes sent after it. -/
  out : List Byte
  /-- The number of bytes clocked in. -/
  nin : Nat
  /-- The byte the transceiver returned during the opcode byte. -/
  status : Byte
  /-- `in`: the bytes the transceiver returned. -/
  inp : List Byte
  deriving DecidableEq, Repr

/-- What can reach the block from outside (R35): the reset signal, a command string, or an exchange handed to the bus
emitter, which is the model's own way to the bus rows of the opcode table (log entry 5). -/
inductive Input where
  | reset
  | wire (w : Wire)
  deriving DecidableEq, Repr

/-- The block's own faults (60_exceptions.md R200). Taking one is a NEXT state (R201), no stop of the model. -/
inductive BlockFault where
  | illegalOpcode | cmdLength | addrLen | unwritten | frameLen | scrambleIndex | xoroutIndex | csumLen
  deriving DecidableEq, Repr

/-- The state. An `Option` register is a value with its valid bit; `none` is "unwritten" (R21). -/
structure State where
  /-- `ALEN` (R23). -/
  alen : Option Byte
  /-- `TX_ADDR[0..4]`, a valid bit each (R24). -/
  txAddr : Vector (Option Byte) 5
  /-- `RX_ADDR[0..4]`, a valid bit each (R24). -/
  rxAddr : Vector (Option Byte) 5
  /-- `RX_ALEN`. -/
  rxAlen : Option Byte
  /-- `CRC_ON` (R26). -/
  crcOn : Option Bool
  /-- `CFG_MIRROR` (R29). -/
  cfgMirror : Option Byte
  /-- `RES` (R30). -/
  res : Option Word
  /-- `RXMSG` (R31). -/
  rxMsg : Option (List Byte)
  /-- `STATUS` (R32). -/
  status : Option Byte
  /-- `FAULT_CODE` (R33). -/
  faultCode : Byte
  /-- `FAULT_OPC` (R33). -/
  faultOpc : Byte
  /-- `BUSLOG`, oldest first (R34). -/
  busLog : List Exchange
  /-- The tables of R28 and the other parameters of R7; no step changes them. -/
  config : Config
  /-- MODEL FIELD: what the host has issued and the block has not taken, oldest first (R25, R35). -/
  port : List Input
  /-- MODEL FIELD: the bytes the transceiver is going to return, first the next one; past them every byte is free. -/
  responses : List Byte
  /-- MODEL FIELD: how many bytes the transceiver has returned; the argument of the free byte. -/
  drawCount : Nat
  deriving DecidableEq, Repr

/-- Why the machine stops. No instruction of the table stops it; only the model's own bus input can. -/
inductive Fault where
  /-- Raised by the fetch of a bus exchange whose opcode is one of R77's and whose data is not what that opcode carries:
  more than 31 bytes, bytes where it carries none, or a code byte of BUS_ACTIVATE other than 0x73 and 0x53; never in a
  halted block. The block never issues one (R170). Safe: the model stops. -/
  | busData
  deriving DecidableEq, Repr

/-- Why the machine has no meaning for what it was given. -/
inductive Refusal where
  /-- Raised by an arm of `exec` that has no meaning yet. Safe: the model stops. None is left. -/
  | notModelled (mnemonic : String)
  /-- Raised by the fetch of a bus exchange whose opcode byte is in none of R77's patterns: such a byte "has no meaning in
  this spec" (R78); never in a halted block. Safe: the model stops. -/
  | busOpcodeWithoutMeaning
  deriving DecidableEq, Repr

/-- Right after reset (R36), with nothing issued (log entry 3) and no answer fixed (log entry 4). -/
def State.reset : State where
  alen := none
  txAddr := Vector.replicate 5 none
  rxAddr := Vector.replicate 5 none
  rxAlen := none
  crcOn := none
  cfgMirror := none
  res := none
  rxMsg := none
  status := none
  faultCode := 0#8
  faultOpc := 0#8
  busLog := []
  config := Config.installed
  port := []
  responses := []
  drawCount := 0

end Sys2Proof.Machine
end

