-- ==== Sys2Proof/Machine/Ops.lean ====
section
/-! DEFINITION. The operations every command shares: one control-bus exchange (43_bus.md R170, R171), raising a fault
(60_exceptions.md R201), the halt (R202), reset (70_reset_and_hazards.md R230), and the host's reads (10_state.md R35). -/

namespace Sys2Proof.Machine

/-! ### Draws and exchanges -/

/-- The `k`-th byte the transceiver returns from now on, `k = 0` the next: the listed answer, else a free byte (R171). -/
def State.nextDraw (s : State) (k : Nat) : Byte :=
  match s.responses[k]? with
  | some b => b
  | none => Config.freeByte (s.drawCount + k)

/-- The `n` bytes clocked in by an exchange, which come after its status byte. -/
def State.drawnBytes (s : State) (n : Nat) : List Byte := (List.range n).map fun k => s.nextDraw (k + 1)

/-- `Bus(op, out, nin)` (00_scope.md R11): draws the status byte and `nin` bytes, appends the record, and keeps the
status byte in `STATUS` (R32, R170). -/
def State.exchange (s : State) (op : Byte) (out : List Byte) (nin : Nat) : State :=
  { s with
    status := some (s.nextDraw 0)
    busLog := s.busLog ++ [{ op := op, out := out, nin := nin, status := s.nextDraw 0, inp := s.drawnBytes nin }]
    responses := s.responses.drop (nin + 1)
    drawCount := s.drawCount + (nin + 1) }

/-! ### Faults -/

/-- The fault codes (R200). -/
def BlockFault.code : BlockFault → Byte
  | .illegalOpcode => 1#8
  | .cmdLength => 2#8
  | .addrLen => 3#8
  | .unwritten => 4#8
  | .frameLen => 5#8
  | .scrambleIndex => 6#8
  | .xoroutIndex => 7#8
  | .csumLen => 8#8

/-- Taking a fault (R201): `FAULT_CODE` and `FAULT_OPC` are written, nothing else. `opc` is byte 0 of the command
string, 0 for an empty one. -/
def State.raise (s : State) (f : BlockFault) (opc : Byte) : State :=
  { s with faultCode := f.code, faultOpc := opc }

/-- A fault is recorded: the block is halted (R202). -/
def State.halted (s : State) : Bool := s.faultCode != 0#8

/-- Running a command (00_scope.md R12 step 1): a halted block refuses it, with no effect (R202); else its effect
happens, whole. -/
def State.issue (s : State) (effect : State) : Host.Outcome State Fault Refusal :=
  .next (if s.halted then s else effect)

/-! ### Results -/

/-- `RES <- w` (R30). -/
def State.setRes (s : State) (w : Word) : State := { s with res := some w }

/-- `RES <- zext_16(b)` (R30). -/
def State.setResByte (s : State) (b : Byte) : State := s.setRes (b.setWidth 16)

/-! ### Reset -/

/-- The reset input (R230): every register to its reset state; the tables stay (R28); no exchange is issued (R231). The
host's inputs and the transceiver's answers are no registers of the block and stay. -/
def State.resetBlock (s : State) : State :=
  { State.reset with
    config := s.config, port := s.port, responses := s.responses, drawCount := s.drawCount }

end Sys2Proof.Machine
end

