-- ==== Sys2Proof/Machine/Bus.lean ====
section
/-! DEFINITION. The control-bus family (43_bus.md): what each bus opcode does to the block. The three the block emits log
an exchange and write `STATUS`; the five it never emits have no effect on it (R175 to R178). A halted block emits nothing
(60_exceptions.md R202). How a step reaches these is log entry 5. -/

namespace Sys2Proof.Machine

/-- BUS_WREG (R172). -/
def execBusWreg (r : BitVec 5) (out : List Byte) (s : State) : Host.Outcome State Fault Refusal :=
  s.issue (s.exchange (wregOpcode (r.setWidth 8)) out 0)

/-- BUS_WPAYLOAD (R173). -/
def execBusWpayload (out : List Byte) (s : State) : Host.Outcome State Fault Refusal :=
  s.issue (s.exchange wpayloadOpcode out 0)

/-- BUS_RPAYLOAD (R174): the bytes are in the record; only READ_PAYLOAD de-frames them into RXMSG. -/
def execBusRpayload (nin : Nat) (s : State) : Host.Outcome State Fault Refusal :=
  s.issue (s.exchange rpayloadOpcode [] nin)

/-- BUS_RREG (R175): "Effect on the block: none". -/
def execBusRreg (_r : BitVec 5) (_nin : Nat) (s : State) : Host.Outcome State Fault Refusal := s.issue s

/-- BUS_FLUSH_TX (R176): "Effect on the block: none". -/
def execBusFlushTx (s : State) : Host.Outcome State Fault Refusal := s.issue s

/-- BUS_FLUSH_RX (R176): "Effect on the block: none". -/
def execBusFlushRx (s : State) : Host.Outcome State Fault Refusal := s.issue s

/-- BUS_ACTIVATE (R177): "Effect on the block: none". -/
def execBusActivate (_code : ActivateCode) (s : State) : Host.Outcome State Fault Refusal := s.issue s

/-- BUS_NOP (R178): "Effect on the block: none". -/
def execBusNop (s : State) : Host.Outcome State Fault Refusal := s.issue s

end Sys2Proof.Machine
end

