-- ==== Sys2Proof/Machine/Operands.lean ====
section
/-! DEFINITION. How operands are read: the channel and its clamp (30_encoding.md R72, 41_quantize.md R140), the address
registers (10_state.md R24), the parameter functions (00_scope.md R7), the two table reads (00_scope.md R11). -/

namespace Sys2Proof.Machine

/-- `CH = sext_16(..)` (R72). -/
def channelValue (ch : Word) : Int := ch.toInt

/-- `clamp(v)` (R140). -/
def clampAxis (v : Int) : Int := min (max v (-chanMax)) chanMax

/-- The clamped channel, the operand of R141 to R144 and R146. -/
def axisOf (ch : Word) : Int := clampAxis (channelValue ch)

/-- A parameter function at an axis value: the byte of the last threshold at or below it. -/
def stepFnAt (f : StepFn) (c : Int) : Byte := f.steps.foldl (fun v p => if p.1 ≤ c then p.2 else v) f.base

/-- `N_XOROUT`. -/
def nXorout (cfg : Config) : Nat := cfg.xorout.length

/-- `ROM_S(i)` (00_scope.md R11, 20_memory.md R52). -/
def romS (cfg : Config) (i : Nat) : Except BlockFault Byte :=
  match cfg.scramble[i]? with
  | some b => .ok b
  | none => .error .scrambleIndex

/-- `ROM_X(i)` (00_scope.md R11, 20_memory.md R53). -/
def romX (cfg : Config) (i : Nat) : Except BlockFault Word :=
  match cfg.xorout[i]? with
  | some w => .ok w
  | none => .error .xoroutIndex

/-- The five address registers after an address of `a` bytes is set: `(i < LEN) ? A[i] : unwritten` (R110, R111). -/
def addrRegs (a : List Byte) : Vector (Option Byte) 5 := Vector.ofFn fun i => a[i.val]?

/-- `TX_ADDR[i]`, if there is such a byte and it has been written. -/
def State.txByte (s : State) (i : Nat) : Option Byte := (s.txAddr[i]?).join

/-- `TX_ADDR[0..n-1]`, if every byte of it has been written (R113 check 2). -/
def State.txBytes (s : State) (n : Nat) : Option (List Byte) := (List.range n).mapM s.txByte

/-- The length of an address as `ALEN` holds it: 8 bits (R20). -/
def addrLenByte (a : List Byte) : Byte := BitVec.ofNat 8 a.length

/-- `3 ≤ LEN ≤ 5` (R110, R111). -/
def addrLenOk (a : List Byte) : Bool := alenMin ≤ a.length && a.length ≤ alenMax

end Sys2Proof.Machine
end

