-- ==== Sys2Proof/Machine/Checksum.lean ====
section
/-! DEFINITION. The checksum trailer family (42_checksum.md). -/

namespace Sys2Proof.Machine

/-- `xor8(D)` (R150). -/
def xor8 (d : List Byte) : Byte := d.foldl (· ^^^ ·) 0#8

/-- `sum8(D)` (R150): the integer total, mod 256. -/
def sum8 (d : List Byte) : Byte := BitVec.ofNat 8 (d.map BitVec.toNat).sum

/-- `u8(xor8(D) + SYMAX_BIAS_XOR)` (R151). -/
def symaxXorOf (cfg : Config) (d : List Byte) : Byte := xor8 d + cfg.symaxBiasXor

/-- `u8(sum8(D) + SYMAX_BIAS_ADD)` (R152). -/
def symaxAddOf (cfg : Config) (d : List Byte) : Byte := sum8 d + cfg.symaxBiasAdd

/-- `~sum8(D) & 0xFF` (R153). -/
def yd717CsumOf (d : List Byte) : Byte := ~~~sum8 d

/-- CK_SYMAX_XOR (R151). -/
def execCkSymaxXor (d : List Byte) (s : State) : Host.Outcome State Fault Refusal :=
  s.issue (s.setResByte (symaxXorOf s.config d))

/-- CK_SYMAX_ADD (R152). -/
def execCkSymaxAdd (d : List Byte) (s : State) : Host.Outcome State Fault Refusal :=
  s.issue (s.setResByte (symaxAddOf s.config d))

/-- CK_YD717 (R153): `N = 8`, else CSUM_LEN. -/
def execCkYd717 (d : List Byte) (s : State) : Host.Outcome State Fault Refusal :=
  s.issue (if d.length = yd717CsumN then s.setResByte (yd717CsumOf d) else s.raise .csumLen Cmd.ckYd717.byte)

end Sys2Proof.Machine
end

