-- ==== Sys2Proof/Machine/Flags.lean ====
section
/-! DEFINITION. The block's one flag, `CRC_ON`, and the byte CONFIGURE passes on (10_state.md R26, R27); the value of a
Boolean channel (41_quantize.md R145). -/

namespace Sys2Proof.Machine

/-- `CRC_ON <- ((B & CRC_EN_BIT) != 0)` (R112). -/
def crcEnabled (cfg : Config) (b : Byte) : Bool := b &&& cfg.crcEnBit != 0#8

/-- `B & ~CRC_STRIP_MASK & 0xFF` (R112). -/
def delegatedConfig (cfg : Config) (b : Byte) : Byte := b &&& ~~~cfg.crcStripMask

/-- `(CH > 0) ? 1 : 0`; the clamp is not applied (R145). -/
def flagOf (ch : Word) : Word := if 0 < channelValue ch then 1#16 else 0#16

end Sys2Proof.Machine
end

