-- ==== Sys2Proof/Machine/Framer.lean ====
section
/-! DEFINITION. The framer family (40_framer.md): bit reversal, CRC-16, the frame and its inverse, and the seven
commands that use them. -/

namespace Sys2Proof.Machine

/-! ### Datapath functions -/

/-- `rev8(b)[i] = b[7-i]` (R101): bit 0 of `b` becomes the most significant. -/
def rev8 (b : Byte) : Byte :=
  BitVec.ofBoolListBE
    [b.getLsbD 0, b.getLsbD 1, b.getLsbD 2, b.getLsbD 3, b.getLsbD 4, b.getLsbD 5, b.getLsbD 6, b.getLsbD 7]

/-- One shift of the CRC register, most significant bit out (R103). -/
def crcShift (t : Word) : Word := if t.getLsbD 15 then (t <<< 1) ^^^ crcPoly else t <<< 1

/-- `crc_step(c, b)`: the byte enters at the high end, then eight shifts (R103). -/
def crcStep (c : Word) (b : Byte) : Word :=
  crcShift (crcShift (crcShift (crcShift (crcShift (crcShift (crcShift (crcShift (c ^^^ (b.setWidth 16 <<< 8)))))))))

/-- `crc16(v, d)` (R104). -/
def crc16 (v : Word) (d : List Byte) : Word := d.foldl crcStep v

/-- The bytes of `l` XORed with the scramble table from entry `k` on (R102); a read beyond the table is its fault. -/
def scrambleFrom (cfg : Config) (k : Nat) : List Byte → Except BlockFault (List Byte)
  | [] => .ok []
  | b :: bs =>
    match romS cfg k with
    | .error e => .error e
    | .ok s =>
      match scrambleFrom cfg (k + 1) bs with
      | .error e => .error e
      | .ok r => .ok ((b ^^^ s) :: r)

/-- How many bytes stand before the address: one when the address is shorter than 4 bytes (R106 part 1). -/
def leadLength (alen : Nat) : Nat := if alen < 4 then 1 else 0

/-- Part 1 of a frame (R106): `PREFIX`, unscrambled, when the address is shorter than 4 bytes. -/
def frameLead (cfg : Config) (alen : Nat) : List Byte := if alen < 4 then [cfg.leadByte] else []

/-- Part 4 of a frame (R105, R106): the CRC of the covered bytes XORed with the entry for the lengths, high byte first. -/
def frameCrc (cfg : Config) (alen plen : Nat) (covered : List Byte) : Except BlockFault (List Byte) :=
  match romX cfg (alen - alenMin + plen) with
  | .error e => .error e
  | .ok x =>
    let c := crc16 crcInit covered ^^^ x
    .ok [c.extractLsb' 8 8, c.extractLsb' 0 8]

/-- `FRAME(alen, tx, msg, crc_on)` (R106): the address reversed in order and scrambled from entry 0, the payload
bit-reversed and scrambled from entry `alen`, the CRC over both. -/
def frame (cfg : Config) (alen : Nat) (tx msg : List Byte) (crcOn : Bool) : Except BlockFault (List Byte) :=
  match scrambleFrom cfg 0 tx.reverse with
  | .error e => .error e
  | .ok address =>
    match scrambleFrom cfg alen (msg.map rev8) with
    | .error e => .error e
    | .ok payload =>
      if crcOn then
        match frameCrc cfg alen msg.length (address ++ payload) with
        | .error e => .error e
        | .ok c => .ok (frameLead cfg alen ++ address ++ payload ++ c)
      else .ok (frameLead cfg alen ++ address ++ payload)

/-- `flen` (R107). -/
def frameLength (alen plen : Nat) (crcOn : Bool) : Nat :=
  leadLength alen + alen + plen + (if crcOn then 2 else 0)

/-- `PRE5(alen)` (R108). -/
def pre5 (cfg : Config) (alen : Nat) : List Byte :=
  if 4 ≤ alen then cfg.preamble.toList
  else [cfg.preamble[1], cfg.preamble[2], cfg.preamble[3], cfg.preamble[4], cfg.preamble[4]]

/-- `UNFRAME(alen, i, r)` (R109). -/
def unframe (cfg : Config) (alen i : Nat) (r : Byte) : Except BlockFault Byte :=
  match romS cfg (alen + i) with
  | .ok s => .ok (rev8 (r ^^^ s))
  | .error e => .error e

/-- The de-framed bytes of a payload read (R114): `UNFRAME` at each position. -/
def unframeFrom (cfg : Config) (alen i : Nat) : List Byte → Except BlockFault (List Byte)
  | [] => .ok []
  | r :: rs =>
    match unframe cfg alen i r with
    | .error e => .error e
    | .ok b =>
      match unframeFrom cfg alen (i + 1) rs with
      | .error e => .error e
      | .ok bs => .ok (b :: bs)

/-! ### Commands -/

/-- Effect of SET_TX_ADDR on a block that is not halted (R110). -/
def setTxAddr (a : List Byte) (s : State) : State :=
  if addrLenOk a then
    State.exchange { s with txAddr := addrRegs a, alen := some (addrLenByte a) }
      (wregOpcode s.config.regTxAddr) (pre5 s.config a.length) 0
  else s.raise .addrLen Cmd.setTxAddr.byte

/-- SET_TX_ADDR (R110). -/
def execSetTxAddr (a : List Byte) (s : State) : Host.Outcome State Fault Refusal := s.issue (setTxAddr a s)

/-- Effect of SET_RX_ADDR (R111). -/
def setRxAddr (a : List Byte) (s : State) : State :=
  if addrLenOk a then
    State.exchange
      { s with
        rxAddr := addrRegs a
        rxAlen := some (addrLenByte a)
        alen := if s.config.alenOnRxSet then some (addrLenByte a) else s.alen }
      (wregOpcode s.config.regRxAddr) (pre5 s.config a.length) 0
  else s.raise .addrLen Cmd.setRxAddr.byte

/-- SET_RX_ADDR (R111). -/
def execSetRxAddr (a : List Byte) (s : State) : Host.Outcome State Fault Refusal := s.issue (setRxAddr a s)

/-- Effect of CONFIGURE (R112). -/
def configure (b : Byte) (s : State) : State :=
  State.exchange
    { s with crcOn := some (crcEnabled s.config b), cfgMirror := some (delegatedConfig s.config b) }
    (wregOpcode s.config.regConfig) [delegatedConfig s.config b] 0

/-- CONFIGURE (R112). -/
def execConfigure (b : Byte) (s : State) : Host.Outcome State Fault Refusal := s.issue (configure b s)

/-- What WRITE_PAYLOAD sends (R113): its checks 1 to 6 in order, then the frame. -/
def writeFrame (m : List Byte) (s : State) : Except BlockFault (List Byte) :=
  match s.alen with
  | none => .error .unwritten
  | some alen =>
    match s.txBytes alen.toNat with
    | none => .error .unwritten
    | some tx =>
      match s.crcOn with
      | none => .error .unwritten
      | some crcOn =>
        if maxData < frameLength alen.toNat m.length crcOn then .error .frameLen
        else if 0 < m.length ∧ nScramble - 1 < alen.toNat + m.length - 1 then .error .scrambleIndex
        else if crcOn = true ∧ nXorout s.config ≤ alen.toNat - alenMin + m.length then .error .xoroutIndex
        else frame s.config alen.toNat tx m crcOn

/-- Effect of WRITE_PAYLOAD (R113). -/
def writePayload (m : List Byte) (s : State) : State :=
  match writeFrame m s with
  | .ok f => s.exchange wpayloadOpcode f 0
  | .error e => s.raise e Cmd.writePayload.byte

/-- WRITE_PAYLOAD (R113). -/
def execWritePayload (m : List Byte) (s : State) : Host.Outcome State Fault Refusal := s.issue (writePayload m s)

/-- What READ_PAYLOAD leaves in RXMSG (R114): its checks 1 to 3 in order, then the bytes the exchange is about to draw,
de-framed with the address length that is current now (70_reset_and_hazards.md R235). No CRC is checked (R118). -/
def readMessage (len : Byte) (s : State) : Except BlockFault (List Byte) :=
  match s.alen with
  | none => .error .unwritten
  | some alen =>
    if maxData < len.toNat then .error .frameLen
    else if 0 < len.toNat ∧ nScramble - 1 < alen.toNat + len.toNat - 1 then .error .scrambleIndex
    else unframeFrom s.config alen.toNat 0 (s.drawnBytes len.toNat)

/-- Effect of READ_PAYLOAD (R114). -/
def readPayload (len : Byte) (s : State) : State :=
  match readMessage len s with
  | .ok bytes => State.exchange { s with rxMsg := some bytes } rpayloadOpcode [] len.toNat
  | .error e => s.raise e Cmd.readPayload.byte

/-- READ_PAYLOAD (R114). -/
def execReadPayload (len : Byte) (s : State) : Host.Outcome State Fault Refusal := s.issue (readPayload len s)

/-- CRC16_RAW (R115). -/
def execCrc16Raw (d : List Byte) (s : State) : Host.Outcome State Fault Refusal := s.issue (s.setRes (crc16 crcInit d))

/-- BITREV8 (R116). -/
def execBitrev8 (b : Byte) (s : State) : Host.Outcome State Fault Refusal := s.issue (s.setResByte (rev8 b))

end Sys2Proof.Machine
end

