-- ==== Sys2Proof/Machine/Quantize.lean ====
section
/-! DEFINITION. The control-channel quantization family (41_quantize.md). All arithmetic is on integers and narrows at
the end (00_scope.md R9); division truncates toward zero (R10). -/

namespace Sys2Proof.Machine

/-- `u16(tdiv(c * 500, 10000) + 1500)` (R141). -/
def cx10Of (c : Int) : Word := BitVec.ofInt 16 (Int.tdiv (c * cx10Span) chanMax + cx10Center)

/-- `s | m`, sign bit and magnitude (R142). -/
def symaxOf (c : Int) : Byte :=
  (if c < 0 then 0x80#8 else 0x00#8) ||| BitVec.ofInt 8 (Int.tdiv ((c.natAbs : Int) * symaxMag) chanMax)

/-- `t >> 1` with `t = tdiv(c * 255, 10000) + 256` (R144). -/
def yd717Of (c : Int) : Byte := BitVec.ofInt 8 ((Int.tdiv (c * yd717Scale) chanMax + yd717Offset) >>> (1 : Nat))

/-- Q_CX10 (R141). -/
def execQCx10 (ch : Word) (s : State) : Host.Outcome State Fault Refusal := s.issue (s.setRes (cx10Of (axisOf ch)))

/-- Q_SYMAX (R142). -/
def execQSymax (ch : Word) (s : State) : Host.Outcome State Fault Refusal := s.issue (s.setResByte (symaxOf (axisOf ch)))

/-- Q_SYMAX_THR (R143): `SYMAX_THR_FOLD` is a parameter. -/
def execQSymaxThr (ch : Word) (s : State) : Host.Outcome State Fault Refusal :=
  s.issue (s.setResByte (stepFnAt s.config.symaxThrFold (axisOf ch)))

/-- Q_YD717 (R144). -/
def execQYd717 (ch : Word) (s : State) : Host.Outcome State Fault Refusal := s.issue (s.setResByte (yd717Of (axisOf ch)))

/-- Q_FLAG (R145). -/
def execQFlag (ch : Word) (s : State) : Host.Outcome State Fault Refusal := s.issue (s.setRes (flagOf ch))

/-- Q_MODE (R146): `MODE_SELECT` is a parameter. -/
def execQMode (ch : Word) (s : State) : Host.Outcome State Fault Refusal :=
  s.issue (s.setResByte (stepFnAt s.config.modeSelect (axisOf ch)))

end Sys2Proof.Machine
end

