-- ==== Sys2Proof/Machine/Dispatch.lean ====
section
/-! DEFINITION. The meaning of each instruction: one arm per constructor, one call per arm. -/

namespace Sys2Proof.Machine

def exec (i : Instr) (s : State) : Host.Outcome State Fault Refusal :=
  match i with
  | .setTxAddr a => Sys2Proof.Machine.execSetTxAddr a s
  | .setRxAddr a => Sys2Proof.Machine.execSetRxAddr a s
  | .configure b => Sys2Proof.Machine.execConfigure b s
  | .writePayload m => Sys2Proof.Machine.execWritePayload m s
  | .readPayload len => Sys2Proof.Machine.execReadPayload len s
  | .qCx10 ch => Sys2Proof.Machine.execQCx10 ch s
  | .qSymax ch => Sys2Proof.Machine.execQSymax ch s
  | .qSymaxThr ch => Sys2Proof.Machine.execQSymaxThr ch s
  | .qYd717 ch => Sys2Proof.Machine.execQYd717 ch s
  | .qFlag ch => Sys2Proof.Machine.execQFlag ch s
  | .qMode ch => Sys2Proof.Machine.execQMode ch s
  | .ckSymaxXor d => Sys2Proof.Machine.execCkSymaxXor d s
  | .ckSymaxAdd d => Sys2Proof.Machine.execCkSymaxAdd d s
  | .ckYd717 d => Sys2Proof.Machine.execCkYd717 d s
  | .crc16Raw d => Sys2Proof.Machine.execCrc16Raw d s
  | .bitrev8 b => Sys2Proof.Machine.execBitrev8 b s
  | .busRreg r nin => Sys2Proof.Machine.execBusRreg r nin s
  | .busWreg r out => Sys2Proof.Machine.execBusWreg r out s
  | .busRpayload nin => Sys2Proof.Machine.execBusRpayload nin s
  | .busWpayload out => Sys2Proof.Machine.execBusWpayload out s
  | .busFlushTx => Sys2Proof.Machine.execBusFlushTx s
  | .busFlushRx => Sys2Proof.Machine.execBusFlushRx s
  | .busActivate code => Sys2Proof.Machine.execBusActivate code s
  | .busNop => Sys2Proof.Machine.execBusNop s

end Sys2Proof.Machine
end

