-- ==== Sys2Proof/Machine/Fetch.lean ====
section
/-! DEFINITION. How the block takes its next input from the port, up to the decoded instruction (30_encoding.md R70,
60_exceptions.md R202, R203). -/

namespace Sys2Proof.Machine

/-- What the next input asks for, and the state with that input taken from the port. -/
inductive Fetched where
  /-- Nothing has been issued: the block waits (70_reset_and_hazards.md R232). -/
  | idle
  /-- The reset input. -/
  | reset (s : State)
  /-- An instruction. -/
  | run (i : Instr) (s : State)
  /-- An input the block faults on, or refuses, without running it: the state after. -/
  | done (s : State)
  /-- A bus exchange with a data part its opcode does not carry. -/
  | badBusData
  /-- A bus exchange with an opcode byte of no meaning. -/
  | badBusOpcode

/-- A spelling handed to the block: refusal goes first (R203 item 1), then ILLEGAL_OPCODE and CMD_LENGTH, with
`FAULT_OPC` byte 0 of the string or 0 (R201). That the refusal of a halted block takes a bus exchange too, well formed or
not, before it is decoded, is the model's choice (DESIGN CHOICE, log entry 5): the spec gives the block no such input. -/
def fetchWire (w : Wire) (s : State) : Fetched :=
  if s.halted then .done s
  else
    match w with
    | .command bytes =>
      match decodeCommand bytes with
      | .ok i => .run i s
      | .error .illegalOpcode => .done (s.raise .illegalOpcode (bytes.headD 0#8))
      | .error _ => .done (s.raise .cmdLength (bytes.headD 0#8))
    | .bus op out nin =>
      match decodeBus op out nin with
      | .ok i => .run i s
      | .error .busOpcode => .badBusOpcode
      | .error _ => .badBusData

/-- The oldest input of the port (R25). -/
def fetch (s : State) : Fetched :=
  match s.port with
  | [] => .idle
  | .reset :: rest => .reset { s with port := rest }
  | .wire w :: rest => fetchWire w { s with port := rest }

/-- The state with the instruction a table word spells issued next: it is put at the head of the port, on the space
where the word stands (log entries 3 and 6). -/
def issueTableWord (s : State) (nbits w : Nat) : State :=
  { s with port := .wire (tableWire nbits w) :: s.port }

end Sys2Proof.Machine
end

