-- ==== Sys2Proof/Machine/Step.lean ====
section
/-! DEFINITION. One step: the next input of the port, taken whole (00_scope.md R5, 20_memory.md R56). -/

namespace Sys2Proof.Machine

/-- One step. With nothing issued the block waits and its state stays (70_reset_and_hazards.md R232). -/
def step (s : State) : Host.Outcome State Fault Refusal :=
  match fetch s with
  | .idle => .next s
  | .reset t => .next t.resetBlock
  | .run i t => exec i t
  | .done t => .next t
  | .badBusData => .fault .busData
  | .badBusOpcode => .refused .busOpcodeWithoutMeaning

/-- The state in which the next step runs the instruction a table word spells. -/
def State.withFetchWord (s : State) (nbits w : Nat) : State := issueTableWord s nbits w

end Sys2Proof.Machine
end

