-- ==== Sys2Proof/Machine/HostPort.lean ====
section
/-! DEFINITION. What the host does (10_state.md R35): it issues inputs, and reads registers. A read is a function of the
state and changes nothing (20_memory.md R57). -/

namespace Sys2Proof.Machine

/-- The registers the host can name (R20); an address is read byte by byte, each with its valid bit. -/
inductive HostReg where
  | alen
  | txAddr (i : Fin 5)
  | rxAddr (i : Fin 5)
  | rxAlen | crcOn | cfgMirror | res | rxMsg | status | faultCode | faultOpc | busLog
  deriving DecidableEq, Repr

/-- What a read gives. -/
inductive HostValue where
  | byte (b : Byte)
  | flag (b : Bool)
  | word (w : Word)
  | bytes (l : List Byte)
  | log (l : List Exchange)
  deriving DecidableEq, Repr

/-- A host read (R35); `none` is "no value" (R21). -/
def State.hostRead (s : State) : HostReg → Option HostValue
  | .alen => s.alen.map .byte
  | .txAddr i => s.txAddr[i].map .byte
  | .rxAddr i => s.rxAddr[i].map .byte
  | .rxAlen => s.rxAlen.map .byte
  | .crcOn => s.crcOn.map .flag
  | .cfgMirror => s.cfgMirror.map .byte
  | .res => s.res.map .word
  | .rxMsg => s.rxMsg.map .bytes
  | .status => s.status.map .byte
  | .faultCode => some (.byte s.faultCode)
  | .faultOpc => some (.byte s.faultOpc)
  | .busLog => some (.log s.busLog)

/-- The host issues inputs, which the block takes in order (R25). -/
def State.issueAll (s : State) (l : List Input) : State := { s with port := s.port ++ l }

end Sys2Proof.Machine
end

