-- ==== Sys2Proof/Safety.lean ====
section
/-! DEFINITION. What claims are stated in: the invariant of the block's registers, the condition under which WRITE_PAYLOAD
sends, and the observation of a run. -/

namespace Sys2Proof.Machine

/-- `n` address bytes are written, the rest are not. -/
def addrWritten (regs : Vector (Option Byte) 5) (n : Nat) : Prop := ∀ i : Fin 5, regs[i].isSome = decide (i.val < n)

/-- An exchange the block can have issued (43_bus.md R170, R179): a register write of 1 to 31 bytes, a payload write of 4
to 31, or a payload read of up to 31. -/
def Exchange.Emitted (e : Exchange) : Prop :=
  e.inp.length = e.nin ∧
  ((e.op &&& 0xE0#8 = 0x20#8 ∧ 1 ≤ e.out.length ∧ e.out.length ≤ maxData ∧ e.nin = 0) ∨
   (e.op = wpayloadOpcode ∧ minFrame ≤ e.out.length ∧ e.out.length ≤ maxData ∧ e.nin = 0) ∨
   (e.op = rpayloadOpcode ∧ e.out = [] ∧ e.nin ≤ maxData))

/-- The invariant of the registers. -/
structure State.Inv (s : State) : Prop where
  /-- `ALEN` is 3, 4 or 5 (R23). -/
  alen_range : ∀ b, s.alen = some b → alenMin ≤ b.toNat ∧ b.toNat ≤ alenMax
  /-- So is `RX_ALEN`, and exactly that many bytes of `RX_ADDR` are written (R24, R111). -/
  rxAlen_range : ∀ b, s.rxAlen = some b → alenMin ≤ b.toNat ∧ b.toNat ≤ alenMax ∧ addrWritten s.rxAddr b.toNat
  /-- The written bytes of `TX_ADDR` are its first 3, 4 or 5 (R110), or none. -/
  txAddr_shape : ∃ n, addrWritten s.txAddr n ∧ (n = 0 ∨ alenMin ≤ n ∧ n ≤ alenMax)
  /-- Unless SET_RX_ADDR sets it, `ALEN` is the length of the transmit address (R110, R111). -/
  alen_tx : s.config.alenOnRxSet = false → ∀ b, s.alen = some b → addrWritten s.txAddr b.toNat
  /-- CONFIGURE writes `CRC_ON` and `CFG_MIRROR` together (R112). -/
  crc_mirror : s.crcOn.isSome = s.cfgMirror.isSome
  /-- No CRC-enable bit reaches the transceiver (R27). -/
  mirror_stripped : ∀ b, s.cfgMirror = some b → b &&& s.config.crcStripMask = 0#8
  /-- `RXMSG` holds at most 31 bytes (R31). -/
  rxMsg_length : ∀ l, s.rxMsg = some l → l.length ≤ maxData
  /-- `STATUS` is the status byte of the last exchange (R32). -/
  status_last : s.status = s.busLog.getLast?.map Exchange.status
  /-- `BUSLOG` holds exchanges the block can issue (R170, R179). -/
  log_emitted : ∀ e ∈ s.busLog, e.Emitted
  /-- The fault codes are 0 to 8 (R200). -/
  fault_code : s.faultCode.toNat ≤ 8
  /-- Without a recorded fault `FAULT_OPC` is 0 (R200). -/
  fault_opc : s.faultCode = 0#8 → s.faultOpc = 0#8

/-- R113's checks 1 to 6 pass for a payload of `plen` bytes, with this address length, these address bytes and this
CRC setting. -/
structure State.WriteReady (s : State) (plen alen : Nat) (tx : List Byte) (crcOn : Bool) : Prop where
  alen_eq : ∃ a, s.alen = some a ∧ a.toNat = alen
  tx_length : tx.length = alen
  tx_eq : ∀ i, i < alen → ∃ b, tx[i]? = some b ∧ s.txAddr[i]? = some (some b)
  crc_eq : s.crcOn = some crcOn
  fits : frameLength alen plen crcOn ≤ maxData
  scramble_in : 0 < plen → alen + plen - 1 ≤ nScramble - 1
  xorout_in : crcOn = true → alen - alenMin + plen < nXorout s.config

/-- The draws the logged exchanges consumed, in order: each status byte, then the bytes clocked in (43_bus.md R170, R171). -/
def State.drawsLogged (s : State) : List Byte := s.busLog.flatMap fun e => e.status :: e.inp

/-- What is seen of a run (70_reset_and_hazards.md R240): every register as the host reads it, BUSLOG among them, and the
draws. -/
def State.observe (s : State) : (HostReg → Option HostValue) × List Byte := (s.hostRead, s.drawsLogged)

/-! ### How a command's strings decode (30_encoding.md R70 to R72) -/

/-- The strings of an opcode of format A, P or K: a count byte and that many bytes; any other length is CMD_LENGTH. -/
def SpelledCounted (op : Byte) (mk : List Byte → Instr) : Prop :=
  ∀ rest : List Byte, decode (.command (op :: rest)) =
    match rest with
    | [] => .error .cmdLength
    | n :: a => if a.length = n.toNat then .ok (mk a) else .error .cmdLength

/-- The strings of an opcode of format C or R: one byte after the opcode. -/
def SpelledByte (op : Byte) (mk : Byte → Instr) : Prop :=
  ∀ rest : List Byte, decode (.command (op :: rest)) =
    match rest with
    | [b] => .ok (mk b)
    | _ => .error .cmdLength

/-- The strings of an opcode of format Q: the channel's low byte, then its high byte. -/
def SpelledChannel (op : Byte) (mk : Word → Instr) : Prop :=
  ∀ rest : List Byte, decode (.command (op :: rest)) =
    match rest with
    | [lo, hi] => .ok (mk (hi.setWidth 16 <<< 8 ||| lo.setWidth 16))
    | _ => .error .cmdLength

end Sys2Proof.Machine
end

