-- ==== Sys2Proof/Certificates/Slice0/Obligations.lean ====
section
/-! DEFINITION. The statements for the provers, from the numbered rules of spec/. A completion statement gives the whole next
state as an update of the state before, so it is the frame as well: what the update does not name is unchanged. -/

open Sys2Proof Sys2Proof.Machine

/-! ### Decoding and stepping -/

/-- Decoding the spelling of a well-formed instruction gives it back (30_encoding.md R71 to R73, R77). -/
def Obligations.DecodeEncode : Prop := ∀ i : Instr, i.WellFormed → decode (encode i) = .ok i

/-- Whatever decodes is the one spelling of a well-formed instruction: no bit of a string or an exchange is dropped
(30_encoding.md R70 to R72, R77). -/
def Obligations.DecodeOnlyEncodings : Prop :=
  ∀ (w : Wire) (i : Instr), decode w = .ok i → i.WellFormed ∧ encode i = w

/-- R74: the illegal opcodes, each of which faults whatever the string's length, with FAULT_OPC the byte. -/
def Obligations.IllegalOpcode : Prop :=
  ∀ (op : Byte) (rest : List Byte),
    (decode (.command (op :: rest)) = .error .illegalOpcode ↔
      op.toNat = 0x00 ∨ (0x06 ≤ op.toNat ∧ op.toNat ≤ 0x0F) ∨ (0x16 ≤ op.toNat ∧ op.toNat ≤ 0x1F) ∨
        (0x23 ≤ op.toNat ∧ op.toNat ≤ 0x2F) ∨ 0x32 ≤ op.toNat) ∧
    ∀ (s : State) (p : List Input), s.faultCode = 0#8 → s.port = .wire (.command (op :: rest)) :: p →
      decode (.command (op :: rest)) = .error .illegalOpcode →
      step s = .next { s with port := p, faultCode := 1#8, faultOpc := op }

/-- Decoding is total and gives one of two faults (30_encoding.md R70): the empty string and a string of a wrong length take
CMD_LENGTH, with FAULT_OPC byte 0 or 0 (60_exceptions.md R200, R201). -/
def Obligations.CommandLength : Prop :=
  (∀ bytes : List Byte, (∃ i, decode (.command bytes) = .ok i) ∨
    decode (.command bytes) = .error .illegalOpcode ∨ decode (.command bytes) = .error .cmdLength) ∧
  decode (.command []) = .error .cmdLength ∧
  ∀ (s : State) (p : List Input) (bytes : List Byte), s.faultCode = 0#8 → s.port = .wire (.command bytes) :: p →
    decode (.command bytes) = .error .cmdLength →
    step s = .next { s with port := p, faultCode := 2#8, faultOpc := bytes.headD 0#8 }

/-- A command string that decodes is run by the step, on the state with that input taken (00_scope.md R5, R12); a bus
exchange likewise (the model's own input, log entry 5). Nothing else is added around the instruction. In a halted state both
sides are the refusal (R202). -/
def Obligations.StepRunsDecoded : Prop :=
  ∀ (s : State) (w : Wire) (p : List Input) (i : Instr), s.port = .wire w :: p → decode w = .ok i →
    step s = exec i { s with port := p }

/-- Strings written out from the tables of R71 to R73 and R77 decode to what they stand for. -/
def Obligations.DecodeWords : Prop :=
  decode (.command [0x01, 0x03, 0xA1, 0xB2, 0xC3]) = .ok (.setTxAddr [0xA1, 0xB2, 0xC3]) ∧
  decode (.command [0x05, 0x1F]) = .ok (.readPayload 31) ∧
  decode (.command [0x13, 0xF0, 0xD8]) = .ok (.qYd717 (BitVec.ofInt 16 (-10000))) ∧
  decode (.command [0x20, 0x03, 0x01, 0x02, 0x04]) = .ok (.ckSymaxXor [1, 2, 4]) ∧
  decode (.command [0x31, 0xE3]) = .ok (.bitrev8 0xE3) ∧
  decode (.bus 0x30 [0xAA] 0) = .ok (.busWreg 0x10 [0xAA]) ∧
  decode (.bus 0x61 [] 2) = .ok (.busRpayload 2)

/-- With nothing issued the block waits (70_reset_and_hazards.md R232). -/
def Obligations.IdleWaits : Prop := ∀ s : State, s.port = [] → step s = .next s

/-- R76: what a line assembles to decodes, to an instruction with that spelling and the line's opcode. Every line of R76's table
assembles: the byte lists of the counted commands, each byte in decimal or hexadecimal, to opcode, count, bytes; the lines of
one byte to opcode and byte; the channel lines to opcode, `v[7:0]`, `v[15:8]`, for a signed decimal and a 16-bit hexadecimal. -/
def Obligations.AssembleDecodes : Prop :=
  (∀ (l : AsmLine) (bytes : List Byte), assemble l = some bytes →
    bytes.head? = some l.cmd.byte ∧ ∃ i, decode (.command bytes) = .ok i ∧ encode i = .command bytes) ∧
  (∀ (c : Cmd) (a : List Byte) (ops : List AsmNum), (c.format = .a ∨ c.format = .p ∨ c.format = .k) → a.length ≤ 255 →
    List.Forall₂ (fun n b => n = .hex b.toNat ∨ n = .dec b.toNat) ops a →
    assemble ⟨c, ops⟩ = some (c.byte :: BitVec.ofNat 8 a.length :: a)) ∧
  (∀ (c : Cmd) (b : Byte), (c.format = .c ∨ c.format = .r) →
    assemble ⟨c, [.hex b.toNat]⟩ = some [c.byte, b] ∧ assemble ⟨c, [.dec b.toNat]⟩ = some [c.byte, b]) ∧
  ∀ c : Cmd, c.format = .q →
    (∀ v : Int, -32768 ≤ v → v ≤ 32767 → ∃ lo hi : Byte, assemble ⟨c, [.dec v]⟩ = some [c.byte, lo, hi] ∧
      (hi ++ lo : BitVec 16).toInt = v) ∧
    ∀ v : Nat, v ≤ 65535 → ∃ lo hi : Byte, assemble ⟨c, [.hex v]⟩ = some [c.byte, lo, hi] ∧
      lo.toNat = v % 256 ∧ hi.toNat = v / 256

/-! ### Reset -/

/-- R36: what holds after reset. -/
def Obligations.ResetValues : Prop :=
  State.reset.faultCode = 0#8 ∧ State.reset.faultOpc = 0#8 ∧ State.reset.busLog = [] ∧
  State.reset.alen = none ∧ (∀ i : Fin 5, State.reset.txAddr[i] = none) ∧ (∀ i : Fin 5, State.reset.rxAddr[i] = none) ∧
  State.reset.rxAlen = none ∧ State.reset.crcOn = none ∧ State.reset.cfgMirror = none ∧ State.reset.res = none ∧
  State.reset.rxMsg = none ∧ State.reset.status = none ∧ State.reset.config = Config.installed

/-- R230: the reset input puts every register into its reset state, from any state, a halted one too; the tables stay. -/
def Obligations.ResetInput : Prop :=
  ∀ (s : State) (p : List Input), s.port = .reset :: p →
    ∃ t, step s = .next t ∧ t.faultCode = 0#8 ∧ t.faultOpc = 0#8 ∧ t.busLog = [] ∧ t.alen = none ∧
      (∀ i : Fin 5, t.txAddr[i] = none) ∧ (∀ i : Fin 5, t.rxAddr[i] = none) ∧ t.rxAlen = none ∧ t.crcOn = none ∧
      t.cfgMirror = none ∧ t.res = none ∧ t.rxMsg = none ∧ t.status = none ∧ t.config = s.config

/-! ### The framer's datapath -/

/-- R101: bit `i` of the reversal is bit `7 - i`; it is its own inverse; its sixteen fixed points. -/
def Obligations.Rev8Law : Prop :=
  ∀ b : Byte, (∀ i, i < 8 → (rev8 b).getLsbD i = b.getLsbD (7 - i)) ∧ rev8 (rev8 b) = b ∧
    (rev8 b = b ↔ b.toNat ∈ [0x00, 0x18, 0x24, 0x3C, 0x42, 0x5A, 0x66, 0x7E, 0x81, 0x99, 0xA5, 0xBD, 0xC3, 0xDB, 0xE7, 0xFF])

/-- R103: the CRC update, over natural numbers: eight shifts of `c ^ (b << 8)`, each XORing 0x1021 where bit 15 went out. So it
is linear over XOR, as a division by a polynomial is; two values of it (L2.2). -/
def Obligations.CrcStepLinear : Prop :=
  (∀ (c : Word) (b : Byte), (crcStep c b).toNat =
    Nat.iterate (fun t : Nat => if 2 ^ 15 ≤ t then (t * 2 % 2 ^ 16) ^^^ 0x1021 else t * 2 % 2 ^ 16) 8
      (c.toNat ^^^ (b.toNat * 2 ^ 8))) ∧
  (∀ (c d : Word) (a b : Byte), crcStep (c ^^^ d) (a ^^^ b) = crcStep c a ^^^ crcStep d b) ∧
  crcStep 0#16 0x01#8 = 0x1021#16 ∧ crcStep 0xB5D2#16 0x00#8 = 0x257E#16

/-- The CRC of a sequence runs the update byte by byte, from the initial value (40_framer.md R104, with its examples). -/
def Obligations.CrcSequence : Prop :=
  (∀ v : Word, crc16 v [] = v) ∧ (∀ (v : Word) (d : List Byte) (b : Byte), crc16 v (d ++ [b]) = crcStep (crc16 v d) b) ∧
  crc16 0xB5D2#16 [0x31, 0x32, 0x33, 0x34, 0x35, 0x36, 0x37, 0x38, 0x39] = 0xB4FC#16

/-- R108: the five bytes written as the transceiver's literal address. -/
def Obligations.ProgrammedPreamble : Prop :=
  ∀ cfg : Config,
    (∀ alen, 4 ≤ alen → pre5 cfg alen = cfg.preamble.toList) ∧
    pre5 cfg 3 = [cfg.preamble[1], cfg.preamble[2], cfg.preamble[3], cfg.preamble[4], cfg.preamble[4]]

/-- Every byte of a frame: the byte before a short address, the address reversed in order and scrambled from entry 0, the
payload bit-reversed and scrambled from entry `alen`, and the CRC of address and payload XORed with the entry for the lengths,
high byte first (40_framer.md R105, R106, R107). -/
def Obligations.FrameLayout : Prop :=
  ∀ (cfg : Config) (alen : Nat) (tx msg f : List Byte) (crcOn : Bool), 3 ≤ alen → alen ≤ 5 → tx.length = alen →
    frame cfg alen tx msg crcOn = .ok f →
    f.length = (if alen < 4 then 1 else 0) + alen + msg.length + (if crcOn then 2 else 0) ∧
    (alen < 4 → f[0]? = some cfg.leadByte) ∧
    (∀ i, i < alen → ∃ b x, tx[alen - 1 - i]? = some b ∧ cfg.scramble[i]? = some x ∧
      f[(if alen < 4 then 1 else 0) + i]? = some (b ^^^ x)) ∧
    (∀ i, i < msg.length → ∃ b x, msg[i]? = some b ∧ cfg.scramble[alen + i]? = some x ∧
      f[(if alen < 4 then 1 else 0) + alen + i]? = some (rev8 b ^^^ x)) ∧
    (crcOn = true → ∃ x, cfg.xorout[alen - 3 + msg.length]? = some x ∧
      ∀ c, c = crc16 0xB5D2#16 ((f.drop (if alen < 4 then 1 else 0)).take (alen + msg.length)) ^^^ x →
        f.drop ((if alen < 4 then 1 else 0) + alen + msg.length) = [c.extractLsb' 8 8, c.extractLsb' 0 8])

/-- R117: de-framing the payload field of a frame gives the payload, for address lengths 3 to 5 and every payload with
`ALEN + plen ≤ 35`, which is every length of the source's 1 to 28; there is such a frame for each of them, with the CRC where
the XOR-out table has the entry; and READ_PAYLOAD of `plen` bytes, up to the 31 it admits, logs one exchange and leaves the
payload in RXMSG when the bytes that exchange clocked in are the frame's payload field. -/
def Obligations.RoundTrip : Prop :=
  ∀ (cfg : Config) (alen : Nat) (tx msg : List Byte) (crcOn : Bool), 3 ≤ alen → alen ≤ 5 → tx.length = alen →
    alen + msg.length ≤ 35 →
    ((crcOn = true → alen - 3 + msg.length < cfg.xorout.length) → ∃ f, frame cfg alen tx msg crcOn = .ok f) ∧
    ∀ f, frame cfg alen tx msg crcOn = .ok f →
      (∀ i, i < msg.length →
        ∃ r b, f[(if alen < 4 then 1 else 0) + alen + i]? = some r ∧ msg[i]? = some b ∧ unframe cfg alen i r = .ok b) ∧
      ∀ (s : State) (a : Byte), s.faultCode = 0#8 → s.config = cfg → s.alen = some a → a.toNat = alen → msg.length ≤ 31 →
        ∃ t e, exec (.readPayload (BitVec.ofNat 8 msg.length)) s = .next t ∧ t.busLog = s.busLog ++ [e] ∧
          (e.inp = (f.drop ((if alen < 4 then 1 else 0) + alen)).take msg.length → t.rxMsg = some msg)

/-- The payload lengths R113's check 4 admits, for each address length and CRC setting (its corner cases). -/
def Obligations.LargestPayload : Prop :=
  ∀ (alen plen : Nat) (crcOn : Bool), 3 ≤ alen → alen ≤ 5 →
    (frameLength alen plen crcOn ≤ 31 ↔ plen + (if crcOn then 2 else 0) ≤ if alen = 5 then 26 else 27)

/-! ### The framer's commands -/

/-- R110: SET_TX_ADDR with 3 to 5 bytes sets the address whole and ALEN and logs the register write of PRE5; with any other
count it takes ADDR_LEN. -/
def Obligations.SetTxAddr : Prop :=
  SpelledCounted 0x01#8 .setTxAddr ∧
  ∀ (s : State) (a : List Byte), s.faultCode = 0#8 →
    (3 ≤ a.length ∧ a.length ≤ 5 →
      exec (.setTxAddr a) s = .next { s with
        txAddr := Vector.ofFn fun i => a[i.val]?
        alen := some (BitVec.ofNat 8 a.length)
        status := some (s.nextDraw 0)
        busLog := s.busLog ++
          [⟨0x20#8 ||| (0x1F#8 &&& s.config.regTxAddr), pre5 s.config a.length, 0, s.nextDraw 0, []⟩]
        responses := s.responses.drop 1
        drawCount := s.drawCount + 1 }) ∧
    (¬(3 ≤ a.length ∧ a.length ≤ 5) →
      exec (.setTxAddr a) s = .next { s with faultCode := 3#8, faultOpc := 0x01#8 })

/-- R111: SET_RX_ADDR sets RX_ADDR and RX_ALEN, and ALEN when ALEN_ON_RX_SET; else ADDR_LEN. -/
def Obligations.SetRxAddr : Prop :=
  SpelledCounted 0x02#8 .setRxAddr ∧
  ∀ (s : State) (a : List Byte), s.faultCode = 0#8 →
    (3 ≤ a.length ∧ a.length ≤ 5 →
      exec (.setRxAddr a) s = .next { s with
        rxAddr := Vector.ofFn fun i => a[i.val]?
        rxAlen := some (BitVec.ofNat 8 a.length)
        alen := if s.config.alenOnRxSet then some (BitVec.ofNat 8 a.length) else s.alen
        status := some (s.nextDraw 0)
        busLog := s.busLog ++
          [⟨0x20#8 ||| (0x1F#8 &&& s.config.regRxAddr), pre5 s.config a.length, 0, s.nextDraw 0, []⟩]
        responses := s.responses.drop 1
        drawCount := s.drawCount + 1 }) ∧
    (¬(3 ≤ a.length ∧ a.length ≤ 5) →
      exec (.setRxAddr a) s = .next { s with faultCode := 3#8, faultOpc := 0x02#8 })

/-- R112: CONFIGURE, for every value of its byte. -/
def Obligations.Configure : Prop :=
  SpelledByte 0x03#8 .configure ∧
  ∀ (s : State) (b : Byte), s.faultCode = 0#8 →
    exec (.configure b) s = .next { s with
      crcOn := some (decide (b &&& s.config.crcEnBit ≠ 0#8))
      cfgMirror := some (b &&& ~~~s.config.crcStripMask)
      status := some (s.nextDraw 0)
      busLog := s.busLog ++
        [⟨0x20#8 ||| (0x1F#8 &&& s.config.regConfig), [b &&& ~~~s.config.crcStripMask], 0, s.nextDraw 0, []⟩]
      responses := s.responses.drop 1
      drawCount := s.drawCount + 1 }

/-- The masks of a configuration: CRC_EN_BIT is one bit and within CRC_STRIP_MASK. In every configuration and for every byte,
what CONFIGURE sends to REG_CONFIG and keeps in CFG_MIRROR is one byte with no bit of CRC_STRIP_MASK set and every other bit as
given, and CRC_ON is whether CRC_EN_BIT was set (10_state.md R27; 00_scope.md R7). It is about CONFIGURE alone: a bus input (log
entry 5) carries what it is given. -/
def Obligations.CrcMasks : Prop :=
  (∀ cfg : Config, (∃ i : Fin 8, cfg.crcEnBit = 1#8 <<< i.val) ∧ cfg.crcEnBit &&& cfg.crcStripMask = cfg.crcEnBit) ∧
  ∀ (s : State) (b : Byte), s.faultCode = 0#8 →
    ∃ t e sent, exec (.configure b) s = .next t ∧ t.busLog = s.busLog ++ [e] ∧
      e.op = 0x20#8 ||| (0x1F#8 &&& s.config.regConfig) ∧ e.out = [sent] ∧ e.nin = 0 ∧ t.cfgMirror = some sent ∧
      (∀ i, i < 8 → sent.getLsbD i = if s.config.crcStripMask.getLsbD i then false else b.getLsbD i) ∧
      sent &&& s.config.crcEnBit = 0#8 ∧ ∃ on, t.crcOn = some on ∧ (on = true ↔ b &&& s.config.crcEnBit ≠ 0#8)

/-- WRITE_PAYLOAD whose checks pass sends the frame in one exchange, and changes nothing else (40_framer.md R113, R106). -/
def Obligations.WritePayloadSends : Prop :=
  SpelledCounted 0x04#8 .writePayload ∧
  ∀ (s : State) (m tx : List Byte) (alen : Nat) (crcOn : Bool), s.faultCode = 0#8 →
    s.WriteReady m.length alen tx crcOn →
    ∃ f, frame s.config alen tx m crcOn = .ok f ∧
      exec (.writePayload m) s = .next { s with
        status := some (s.nextDraw 0)
        busLog := s.busLog ++ [⟨0xA0#8, f, 0, s.nextDraw 0, []⟩]
        responses := s.responses.drop 1
        drawCount := s.drawCount + 1 }

/-- WRITE_PAYLOAD whose checks do not pass takes the fault of the first that fails (40_framer.md R113, 60_exceptions.md R203);
the fifth check never is that one. -/
def Obligations.WritePayloadFaults : Prop :=
  ∀ (s : State) (m : List Byte), s.faultCode = 0#8 →
    (s.alen = none → exec (.writePayload m) s = .next { s with faultCode := 4#8, faultOpc := 0x04#8 }) ∧
    (∀ a i, s.alen = some a → i < a.toNat → (∀ b, s.txAddr[i]? ≠ some (some b)) →
      exec (.writePayload m) s = .next { s with faultCode := 4#8, faultOpc := 0x04#8 }) ∧
    (s.crcOn = none → exec (.writePayload m) s = .next { s with faultCode := 4#8, faultOpc := 0x04#8 }) ∧
    (∀ a crcOn, s.alen = some a → (∀ i, i < a.toNat → ∃ b, s.txAddr[i]? = some (some b)) → s.crcOn = some crcOn →
      (31 < (if a.toNat < 4 then 1 else 0) + a.toNat + m.length + (if crcOn then 2 else 0) →
        exec (.writePayload m) s = .next { s with faultCode := 5#8, faultOpc := 0x04#8 }) ∧
      ((if a.toNat < 4 then 1 else 0) + a.toNat + m.length + (if crcOn then 2 else 0) ≤ 31 → crcOn = true →
        s.config.xorout.length ≤ a.toNat - 3 + m.length →
        exec (.writePayload m) s = .next { s with faultCode := 7#8, faultOpc := 0x04#8 })) ∧
    ∀ t, exec (.writePayload m) s = .next t → t.faultCode ≠ 6#8

/-- READ_PAYLOAD whose checks pass leaves in RXMSG each drawn byte XORed with its table entry and bit-reversed, and logs one
exchange (40_framer.md R109, R114; the draws are 43_bus.md R171's). -/
def Obligations.ReadPayload : Prop :=
  SpelledByte 0x05#8 .readPayload ∧
  ∀ (s : State) (len a : Byte), s.faultCode = 0#8 → s.alen = some a → len.toNat ≤ 31 →
    (0 < len.toNat → a.toNat + len.toNat - 1 ≤ 34) →
    ∃ msg : List Byte, msg.length = len.toNat ∧
      (∀ i, i < len.toNat → ∃ x, s.config.scramble[a.toNat + i]? = some x ∧
        msg[i]? = some (rev8 (s.nextDraw (i + 1) ^^^ x))) ∧
      exec (.readPayload len) s = .next { s with
        rxMsg := some msg
        status := some (s.nextDraw 0)
        busLog := s.busLog ++
          [⟨0x61#8, [], len.toNat, s.nextDraw 0, (List.range len.toNat).map fun k => s.nextDraw (k + 1)⟩]
        responses := s.responses.drop (len.toNat + 1)
        drawCount := s.drawCount + (len.toNat + 1) }

/-- READ_PAYLOAD whose checks do not pass takes the fault of the first that fails (40_framer.md R114). -/
def Obligations.ReadPayloadFaults : Prop :=
  ∀ (s : State) (len : Byte), s.faultCode = 0#8 →
    (s.alen = none → exec (.readPayload len) s = .next { s with faultCode := 4#8, faultOpc := 0x05#8 }) ∧
    ∀ a, s.alen = some a →
      (31 < len.toNat → exec (.readPayload len) s = .next { s with faultCode := 5#8, faultOpc := 0x05#8 }) ∧
      (0 < len.toNat → len.toNat ≤ 31 → 34 < a.toNat + len.toNat - 1 →
        exec (.readPayload len) s = .next { s with faultCode := 6#8, faultOpc := 0x05#8 })

/-- R115: CRC16_RAW. -/
def Obligations.Crc16Raw : Prop :=
  SpelledCounted 0x30#8 .crc16Raw ∧
  ∀ (s : State) (d : List Byte), s.faultCode = 0#8 →
    exec (.crc16Raw d) s = .next { s with res := some (crc16 0xB5D2#16 d) }

/-- R116: BITREV8. -/
def Obligations.Bitrev8 : Prop :=
  SpelledByte 0x31#8 .bitrev8 ∧
  ∀ (s : State) (b : Byte), s.faultCode = 0#8 →
    exec (.bitrev8 b) s = .next { s with res := some ((rev8 b).setWidth 16) }

/-! ### Quantizers -/

/-- R140: the clamped channel, over every 16-bit operand; the conversions of R141 to R144 and R146 do on an operand what they
do on its clamped value, so the clamp goes before any scaling. -/
def Obligations.AxisClamp : Prop :=
  ∀ ch : Word, (axisOf ch = min (max ch.toInt (-10000)) 10000 ∧
    (ch.toInt ≤ -10001 → axisOf ch = -10000) ∧ (10001 ≤ ch.toInt → axisOf ch = 10000) ∧
    (-10000 ≤ ch.toInt → ch.toInt ≤ 10000 → axisOf ch = ch.toInt)) ∧
    ∀ (ch' : Word) (s : State), ch'.toInt = min (max ch.toInt (-10000)) 10000 →
      exec (.qCx10 ch) s = exec (.qCx10 ch') s ∧ exec (.qSymax ch) s = exec (.qSymax ch') s ∧
      exec (.qSymaxThr ch) s = exec (.qSymaxThr ch') s ∧ exec (.qYd717 ch) s = exec (.qYd717 ch') s ∧
      exec (.qMode ch) s = exec (.qMode ch') s

/-- R141: Q_CX10; the result is in 1000..2000, so nothing wraps. -/
def Obligations.QCx10 : Prop :=
  SpelledChannel 0x10#8 .qCx10 ∧
  ∀ (s : State) (ch : Word), s.faultCode = 0#8 →
    ∃ r : Word, exec (.qCx10 ch) s = .next { s with res := some r } ∧
      (r.toNat : Int) = Int.tdiv (min (max ch.toInt (-10000)) 10000 * 500) 10000 + 1500 ∧
      1000 ≤ r.toNat ∧ r.toNat ≤ 2000

/-- R142: Q_SYMAX: the sign bit is set exactly when the axis is negative; the magnitude is 0 to 127. -/
def Obligations.QSymax : Prop :=
  SpelledChannel 0x11#8 .qSymax ∧
  ∀ (s : State) (ch : Word), s.faultCode = 0#8 →
    ∃ m : Nat, m ≤ 127 ∧
      (m : Int) = Int.tdiv (((min (max ch.toInt (-10000)) 10000).natAbs : Int) * 127) 10000 ∧
      exec (.qSymax ch) s = .next { s with
        res := some (BitVec.ofNat 16 ((if ch.toInt < 0 then 128 else 0) + m)) }

/-- R143: Q_SYMAX_THR is the parameter function at the clamped axis. -/
def Obligations.QSymaxThr : Prop :=
  SpelledChannel 0x12#8 .qSymaxThr ∧
  ∀ (s : State) (ch : Word), s.faultCode = 0#8 →
    exec (.qSymaxThr ch) s = .next { s with
      res := some ((stepFnAt s.config.symaxThrFold (min (max ch.toInt (-10000)) 10000)).setWidth 16) }

/-- R144: Q_YD717: `t` is 1 to 511, the result its half. -/
def Obligations.QYd717 : Prop :=
  SpelledChannel 0x13#8 .qYd717 ∧
  ∀ (s : State) (ch : Word), s.faultCode = 0#8 →
    ∃ t : Nat, 1 ≤ t ∧ t ≤ 511 ∧
      (t : Int) = Int.tdiv (min (max ch.toInt (-10000)) 10000 * 255) 10000 + 256 ∧
      exec (.qYd717 ch) s = .next { s with res := some (BitVec.ofNat 16 (t / 2)) }

/-- R145: Q_FLAG. -/
def Obligations.QFlag : Prop :=
  SpelledChannel 0x14#8 .qFlag ∧
  ∀ (s : State) (ch : Word), s.faultCode = 0#8 →
    exec (.qFlag ch) s = .next { s with res := some (if 0 < ch.toInt then 1#16 else 0#16) }

/-- R146: Q_MODE is the parameter function at the clamped axis. -/
def Obligations.QMode : Prop :=
  SpelledChannel 0x15#8 .qMode ∧
  ∀ (s : State) (ch : Word), s.faultCode = 0#8 →
    exec (.qMode ch) s = .next { s with
      res := some ((stepFnAt s.config.modeSelect (min (max ch.toInt (-10000)) 10000)).setWidth 16) }

/-- The mode selection of every configuration takes two or three distinct values on the axis (00_scope.md R7,
41_quantize.md R146). -/
def Obligations.ModeValues : Prop :=
  ∀ cfg : Config, ∃ l : List Byte, l.Nodup ∧ 2 ≤ l.length ∧ l.length ≤ 3 ∧
    ∀ b, b ∈ l ↔ ∃ c : Int, -10000 ≤ c ∧ c ≤ 10000 ∧ stepFnAt cfg.modeSelect c = b

/-- The two directions of each conversion at the source's examples (95_test_vectors.md L1.1 to L1.8), and what truncation
gives at -1, where floor division would give another value (00_scope.md R10). -/
def Obligations.QuantizerExamples : Prop :=
  cx10Of 0 = 1500#16 ∧ cx10Of 10000 = 2000#16 ∧ cx10Of (-10000) = 1000#16 ∧ cx10Of (-1) = 1500#16 ∧
  symaxOf 0 = 0x00#8 ∧ symaxOf 10000 = 0x7F#8 ∧ symaxOf (-10000) = 0xFF#8 ∧ symaxOf (-1) = 0x80#8 ∧
  yd717Of (-10000) = 0x00#8 ∧ yd717Of 10000 = 0xFF#8 ∧ yd717Of (-1) = 0x80#8

/-! ### Checksums -/

/-- R150: the folds over a sequence, and an 8-bit accumulator agrees with the total taken mod 256. -/
def Obligations.Folds : Prop :=
  xor8 [] = 0#8 ∧ sum8 [] = 0#8 ∧
  (∀ (d : List Byte) (b : Byte), xor8 (d ++ [b]) = xor8 d ^^^ b) ∧
  (∀ d : List Byte, (sum8 d).toNat = (d.map BitVec.toNat).sum % 256) ∧
  ∀ d : List Byte, sum8 d = d.foldl (· + ·) 0#8

/-- R151: CK_SYMAX_XOR. -/
def Obligations.CkSymaxXor : Prop :=
  SpelledCounted 0x20#8 .ckSymaxXor ∧
  ∀ (s : State) (d : List Byte), s.faultCode = 0#8 →
    exec (.ckSymaxXor d) s = .next { s with
      res := some (BitVec.ofNat 16 (((d.foldl (· ^^^ ·) 0#8).toNat + s.config.symaxBiasXor.toNat) % 256)) }

/-- R152: CK_SYMAX_ADD. -/
def Obligations.CkSymaxAdd : Prop :=
  SpelledCounted 0x21#8 .ckSymaxAdd ∧
  ∀ (s : State) (d : List Byte), s.faultCode = 0#8 →
    exec (.ckSymaxAdd d) s = .next { s with
      res := some (BitVec.ofNat 16 (((d.map BitVec.toNat).sum + s.config.symaxBiasAdd.toNat) % 256)) }

/-- R153: CK_YD717 over 8 bytes; over any other number CSUM_LEN. -/
def Obligations.CkYd717 : Prop :=
  SpelledCounted 0x22#8 .ckYd717 ∧
  ∀ (s : State) (d : List Byte), s.faultCode = 0#8 →
    (d.length = 8 → exec (.ckYd717 d) s = .next { s with
      res := some (BitVec.ofNat 16 (255 - (d.map BitVec.toNat).sum % 256)) }) ∧
    (d.length ≠ 8 → exec (.ckYd717 d) s = .next { s with faultCode := 8#8, faultOpc := 0x22#8 })

/-- A YD717 frame whose last byte is the checksum sums to 0xFF (42_checksum.md R154). -/
def Obligations.Yd717FrameSum : Prop :=
  ∀ (s : State) (d : List Byte), s.faultCode = 0#8 → d.length = 8 →
    ∃ t r, exec (.ckYd717 d) s = .next t ∧ t.res = some r ∧
      sum8 (d ++ [r.setWidth 8]) = 0xFF#8

/-! ### The control bus -/

/-- BUS_WREG, BUS_WPAYLOAD and BUS_RPAYLOAD log their exchange and write STATUS; no other register changes (43_bus.md R172,
R173, R174; that a step can be handed one is the model's own, log entry 5). -/
def Obligations.BusEmitted : Prop :=
  ∀ s : State, s.faultCode = 0#8 →
    (∀ (r : BitVec 5) (out : List Byte), exec (.busWreg r out) s = .next { s with
      status := some (s.nextDraw 0)
      busLog := s.busLog ++ [⟨0x20#8 ||| r.setWidth 8, out, 0, s.nextDraw 0, []⟩]
      responses := s.responses.drop 1
      drawCount := s.drawCount + 1 }) ∧
    (∀ out : List Byte, exec (.busWpayload out) s = .next { s with
      status := some (s.nextDraw 0)
      busLog := s.busLog ++ [⟨0xA0#8, out, 0, s.nextDraw 0, []⟩]
      responses := s.responses.drop 1
      drawCount := s.drawCount + 1 }) ∧
    ∀ nin : Nat, exec (.busRpayload nin) s = .next { s with
      status := some (s.nextDraw 0)
      busLog := s.busLog ++
        [⟨0x61#8, [], nin, s.nextDraw 0, (List.range nin).map fun k => s.nextDraw (k + 1)⟩]
      responses := s.responses.drop (nin + 1)
      drawCount := s.drawCount + (nin + 1) }

/-- BUS_RREG, BUS_FLUSH_TX, BUS_FLUSH_RX, BUS_ACTIVATE and BUS_NOP: "Effect on the block: none" (43_bus.md R175 to R178). -/
def Obligations.BusNeverEmitted : Prop :=
  ∀ s : State, (∀ r nin, exec (.busRreg r nin) s = .next s) ∧ exec .busFlushTx s = .next s ∧
    exec .busFlushRx s = .next s ∧ (∀ code, exec (.busActivate code) s = .next s) ∧ exec .busNop s = .next s

/-- Only the low five bits of a register number reach the bus (43_bus.md R172, corner cases). -/
def Obligations.WregLowBits : Prop :=
  ∀ r : Byte, wregOpcode r &&& 0xE0#8 = 0x20#8 ∧ (wregOpcode r).setWidth 5 = r.setWidth 5 ∧
    wregOpcode r = wregOpcode (r &&& 0x1F#8)

/-- Which exchange each command that takes no fault issues, if any (43_bus.md R179). -/
def Obligations.CommandExchanges : Prop :=
  ∀ (i : Instr) (s t : State) (bytes : List Byte), encode i = .command bytes → s.faultCode = 0#8 →
    exec i s = .next t → t.faultCode = 0#8 →
    ∃ l : List Exchange, t.busLog = s.busLog ++ l ∧
      l.map Exchange.op =
        match i with
        | .setTxAddr _ => [0x20#8 ||| (0x1F#8 &&& s.config.regTxAddr)]
        | .setRxAddr _ => [0x20#8 ||| (0x1F#8 &&& s.config.regRxAddr)]
        | .configure _ => [0x20#8 ||| (0x1F#8 &&& s.config.regConfig)]
        | .writePayload _ => [0xA0#8]
        | .readPayload _ => [0x61#8]
        | _ => []

/-! ### Faults -/

/-- R201: an instruction that takes a fault writes FAULT_CODE and FAULT_OPC, the latter with byte 0 of its command string, and
nothing else. -/
def Obligations.FaultEntry : Prop :=
  ∀ (i : Instr) (s t : State), s.faultCode = 0#8 → exec i s = .next t → t.faultCode ≠ 0#8 →
    t = { s with faultCode := t.faultCode, faultOpc := t.faultOpc } ∧
    (t.faultCode.toNat ≤ 8) ∧ ∃ rest, encode i = .command (t.faultOpc :: rest)

/-- R202: while a fault is recorded every command is refused: it is taken from the port, whatever its bytes, and nothing else
happens; the host may still read every register; the reset input clears the fault. -/
def Obligations.HaltRefuses : Prop :=
  ∀ s : State, s.faultCode ≠ 0#8 →
    (∀ i bytes, encode i = .command bytes → exec i s = .next s) ∧
    (∀ bytes p, s.port = .wire (.command bytes) :: p →
      step s = .next { s with port := p } ∧ ∀ r, { s with port := p }.hostRead r = s.hostRead r) ∧
    ∀ p, s.port = .reset :: p → ∃ t, step s = .next t ∧ t.faultCode = 0#8

/-- Only the reset input leaves the halt, and until then nothing but the port moves: whatever else is issued is taken, with no
effect. Of commands 60_exceptions.md R202 says so; of bus inputs, malformed ones too, it is the model's choice (log entry 5). -/
def Obligations.HaltLasts : Prop :=
  (∀ s t : State, s.faultCode ≠ 0#8 → (∀ p, s.port ≠ .reset :: p) → step s = .next t → t = { s with port := t.port }) ∧
  ∀ (s : State) (w : Wire) (p : List Input), s.faultCode ≠ 0#8 → s.port = .wire w :: p → step s = .next { s with port := p }

/-- Nothing the transceiver answers makes a fault or changes a register other than STATUS, RXMSG and BUSLOG
(60_exceptions.md R205, 40_framer.md R118, 43_bus.md R171). -/
def Obligations.AnswersRaiseNothing : Prop :=
  ∀ (i : Instr) (s : State) (r : List Byte) (n : Nat),
    ∃ t t', exec i s = .next t ∧ exec i { s with responses := r, drawCount := n } = .next t' ∧
      t'.faultCode = t.faultCode ∧ t'.faultOpc = t.faultOpc ∧ t'.alen = t.alen ∧ t'.txAddr = t.txAddr ∧
      t'.rxAddr = t.rxAddr ∧ t'.rxAlen = t.rxAlen ∧ t'.crcOn = t.crcOn ∧ t'.cfgMirror = t.cfgMirror ∧
      t'.res = t.res ∧ t'.rxMsg.isSome = t.rxMsg.isSome ∧ t'.busLog.length = t.busLog.length

/-! ### Whole-machine rules -/

/-- The column "written by" of the register table (10_state.md R20): which instructions can change which register; the fault
registers change only under the commands that have a check of their own (60_exceptions.md R200), with no fault recorded
before. A bus input, which is the model's own (log entry 5), changes BUSLOG and STATUS only; the draws it takes count too. -/
def Obligations.RegisterWriters : Prop :=
  ∀ (i : Instr) (s t : State), exec i s = .next t →
    (t.alen ≠ s.alen → (∃ a, i = .setTxAddr a) ∨ (s.config.alenOnRxSet = true ∧ ∃ a, i = .setRxAddr a)) ∧
    (t.txAddr ≠ s.txAddr → ∃ a, i = .setTxAddr a) ∧
    (t.rxAddr ≠ s.rxAddr ∨ t.rxAlen ≠ s.rxAlen → ∃ a, i = .setRxAddr a) ∧
    (t.crcOn ≠ s.crcOn ∨ t.cfgMirror ≠ s.cfgMirror → ∃ b, i = .configure b) ∧
    (t.rxMsg ≠ s.rxMsg → ∃ len, i = .readPayload len) ∧
    (t.res ≠ s.res → ∃ bytes, encode i = .command bytes ∧ ∃ op, bytes.head? = some op ∧ 0x10 ≤ op.toNat) ∧
    (t.status ≠ s.status → t.busLog ≠ s.busLog) ∧
    (t.busLog ≠ s.busLog → (∃ a, i = .setTxAddr a) ∨ (∃ a, i = .setRxAddr a) ∨ (∃ b, i = .configure b) ∨
      (∃ m, i = .writePayload m) ∨ (∃ len, i = .readPayload len) ∨ (∃ r out, i = .busWreg r out) ∨
      (∃ out, i = .busWpayload out) ∨ ∃ nin, i = .busRpayload nin) ∧
    (t.faultCode ≠ s.faultCode ∨ t.faultOpc ≠ s.faultOpc → s.faultCode = 0#8 ∧ (∃ bytes, encode i = .command bytes) ∧
      ((∃ a, i = .setTxAddr a) ∨ (∃ a, i = .setRxAddr a) ∨ (∃ m, i = .writePayload m) ∨ (∃ len, i = .readPayload len) ∨
        ∃ d, i = .ckYd717 d)) ∧
    ∀ op out nin, encode i = .bus op out nin →
      t = { s with status := t.status, busLog := t.busLog, responses := t.responses, drawCount := t.drawCount }

/-- The constant tables: no step changes them (10_state.md R28, 20_memory.md R63). -/
def Obligations.TablesConstant : Prop := ∀ s t : State, step s = .next t → t.config = s.config

/-- The block only appends to BUSLOG, in issue order, and only reset empties it (10_state.md R34, 20_memory.md R56, R60). That
one step appends at most one exchange is 43_bus.md R179 with the spec's decision D25 (log entry 9) for commands, and the model's
choice (log entry 5) for bus inputs. -/
def Obligations.BusLogAppends : Prop :=
  ∀ s t : State, step s = .next t → (∀ p, s.port ≠ .reset :: p) →
    ∃ l : List Exchange, t.busLog = s.busLog ++ l ∧ l.length ≤ 1

/-- No rule reads the receive address (10_state.md R24): whatever is in RX_ADDR and RX_ALEN, every other register comes out the
same. -/
def Obligations.RxAddrUnread : Prop :=
  ∀ (i : Instr) (s : State) (ra : Vector (Option Byte) 5) (rl : Option Byte),
    ∃ t t', exec i s = .next t ∧ exec i { s with rxAddr := ra, rxAlen := rl } = .next t' ∧
      t = { t' with rxAddr := t.rxAddr, rxAlen := t.rxAlen }

/-- A host read gives the register's value, and no value exactly where the register, or the address byte, is unwritten; one
clause for every register of R20 (10_state.md R21, R35). -/
def Obligations.HostReads : Prop :=
  ∀ (s : State) (v : HostValue),
    (s.hostRead .alen = some v ↔ ∃ b, s.alen = some b ∧ v = .byte b) ∧
    (∀ i : Fin 5, s.hostRead (.txAddr i) = some v ↔ ∃ b, s.txAddr[i] = some b ∧ v = .byte b) ∧
    (∀ i : Fin 5, s.hostRead (.rxAddr i) = some v ↔ ∃ b, s.rxAddr[i] = some b ∧ v = .byte b) ∧
    (s.hostRead .rxAlen = some v ↔ ∃ b, s.rxAlen = some b ∧ v = .byte b) ∧
    (s.hostRead .crcOn = some v ↔ ∃ b, s.crcOn = some b ∧ v = .flag b) ∧
    (s.hostRead .cfgMirror = some v ↔ ∃ b, s.cfgMirror = some b ∧ v = .byte b) ∧
    (s.hostRead .res = some v ↔ ∃ w, s.res = some w ∧ v = .word w) ∧
    (s.hostRead .rxMsg = some v ↔ ∃ l, s.rxMsg = some l ∧ v = .bytes l) ∧
    (s.hostRead .status = some v ↔ ∃ b, s.status = some b ∧ v = .byte b) ∧
    (s.hostRead .faultCode = some v ↔ v = .byte s.faultCode) ∧
    (s.hostRead .faultOpc = some v ↔ v = .byte s.faultOpc) ∧
    (s.hostRead .busLog = some v ↔ v = .log s.busLog)

/-- The observation's draws (70_reset_and_hazards.md R240): a step that is no reset adds to them exactly the bytes it consumed,
which are the next answers of the transceiver in order, the status byte of the exchange first (43_bus.md R171; the order of the
answers is the model's, log entry 4). -/
def Obligations.DrawsObserved : Prop :=
  ∀ s t : State, step s = .next t → (∀ p, s.port ≠ .reset :: p) →
    ∃ l : List Byte, t.observe.2 = s.observe.2 ++ l ∧ t.drawCount = s.drawCount + l.length ∧
      t.responses = s.responses.drop l.length ∧ ∀ k, k < l.length → l[k]? = some (s.nextDraw k)

/-- What the host issues after an input does not change what that input does: the block takes its inputs one at a time, in
order (10_state.md R25, R35, 20_memory.md R60). -/
def Obligations.LaterInputsWait : Prop :=
  ∀ (s t : State) (l : List Input), s.port ≠ [] → step s = .next t → step (s.issueAll l) = .next (t.issueAll l)

/-- The invariant holds at reset. -/
def Obligations.InvReset : Prop := State.reset.Inv

/-- Every step keeps the invariant of the registers (10_state.md R20 to R36; 43_bus.md R170, R179): ALEN and RX_ALEN in 3..5,
the written address bytes a first part of their register, STATUS the last exchange's, every record within the bus bound, fault
codes 0 to 8. -/
def Obligations.InvStep : Prop := ∀ s t : State, s.Inv → step s = .next t → t.Inv

/-- The boot order (70_reset_and_hazards.md R233): after an address of 3 to 5 bytes and a configuration byte, in either order,
a payload that fits is sent, when the XOR-out table has 27 entries or more: three steps, no fault, the last record a payload
write. -/
def Obligations.BootThenWrite : Prop :=
  ∀ (s : State) (a m : List Byte) (b : Byte) (first : Bool), s.faultCode = 0#8 → 3 ≤ a.length → a.length ≤ 5 →
    27 ≤ s.config.xorout.length →
    frameLength a.length m.length (decide (b &&& s.config.crcEnBit ≠ 0#8)) ≤ 31 →
    s.port = (if first then [.wire (encode (.setTxAddr a)), .wire (encode (.configure b))]
      else [.wire (encode (.configure b)), .wire (encode (.setTxAddr a))]) ++ [.wire (encode (.writePayload m))] →
    ∃ u v t e, step s = .next u ∧ step u = .next v ∧ step v = .next t ∧ t.faultCode = 0#8 ∧ t.port = [] ∧ t.busLog.getLast? = some e ∧ e.op = 0xA0#8 ∧
      t.busLog.length = s.busLog.length + 3 ∧
      frame s.config a.length a m (decide (b &&& s.config.crcEnBit ≠ 0#8)) = .ok e.out
end

