-- ==== Sys2Proof/Laws/Config.lean ====
section
/-! SUPPORT. The parameter functions of 00_scope.md R7 as data: every function on the axis has a legal step list, so the data
form loses nothing. -/

namespace Sys2Proof.Machine

/-- The step list with a threshold at each of the first `n` axis values above -10000. -/
def stepFnUpTo (f : Int → Byte) (n : Nat) : StepFn where
  base := f (-10000)
  steps := (List.range n).map fun k : Nat => ((k : Int) - 9999, f ((k : Int) - 9999))

theorem stepFnUpTo_at (f : Int → Byte) (c : Int) (h : -10000 ≤ c) : ∀ n : Nat,
    stepFnAt (stepFnUpTo f n) c = if c ≤ (n : Int) - 10000 then f c else f ((n : Int) - 10000)
  | 0 => by
    by_cases hc : c ≤ -10000
    · simp [stepFnAt, stepFnUpTo, show c = -10000 by omega]
    · simp [stepFnAt, stepFnUpTo, hc]
  | n + 1 => by
    have ih := stepFnUpTo_at f c h n
    simp only [stepFnAt, stepFnUpTo] at ih ⊢
    rw [List.range_succ, List.map_append, List.foldl_append, ih]
    simp only [List.map_cons, List.map_nil, List.foldl_cons, List.foldl_nil, Nat.cast_add, Nat.cast_one]
    by_cases h1 : c ≤ (n : Int) - 10000
    · rw [if_neg (by omega), if_pos h1, if_pos (by omega)]
    · rw [if_pos (by omega)]
      by_cases h2 : c ≤ (n : Int) + 1 - 10000
      · rw [if_pos h2]; congr 1; omega
      · rw [if_neg h2]; congr 1; omega

theorem stepFnUpTo_legal (f : Int → Byte) {n : Nat} (h : n ≤ 20000) : (stepFnUpTo f n).legal = true := by
  simp only [StepFn.legal, stepFnUpTo, Bool.and_eq_true, decide_eq_true_eq, List.all_eq_true, List.mem_map,
    List.mem_range, List.map_map]
  constructor
  · rw [List.pairwise_map]
    exact List.pairwise_lt_range.imp fun hab => by simp only [Function.comp]; omega
  · rintro p ⟨k, hk, rfl⟩
    dsimp only
    omega

/-- Every function on -10000..10000 is the value of a legal step list (R7: "function from the clamped axis"). -/
theorem stepFn_complete (f : Int → Byte) :
    ∃ g : StepFn, g.legal = true ∧ ∀ c, -10000 ≤ c → c ≤ 10000 → stepFnAt g c = f c := by
  refine ⟨stepFnUpTo f 20000, stepFnUpTo_legal f (le_refl _), fun c h1 h2 => ?_⟩
  rw [stepFnUpTo_at f c h1, if_pos (by push_cast; omega)]

end Sys2Proof.Machine

namespace Sys2Proof

open Sys2Proof.Machine

/-- What the type of a configuration says of its parameters (R7, R27). -/
theorem Config.legal_parts (cfg : Config) :
    1 ≤ nXorout cfg ∧ (∃ i : Fin 8, cfg.crcEnBit = 1#8 <<< i.val) ∧ cfg.crcEnBit &&& cfg.crcStripMask = cfg.crcEnBit ∧
    cfg.symaxThrFold.legal = true ∧ cfg.modeSelect.legal = true ∧
    2 ≤ cfg.modeSelect.values.length ∧ cfg.modeSelect.values.length ≤ 3 := by
  have h := cfg.isLegal
  simp only [Parameters.legal, Bool.and_eq_true, decide_eq_true_eq] at h
  obtain ⟨⟨⟨⟨⟨h1, h2⟩, h3⟩, h4⟩, h5⟩, h6⟩ := h
  exact ⟨h1, h2, h3, h4, h5, h6⟩

end Sys2Proof
end

