-- ==== Sys2Proof/Laws/State.lean ====
section
/-! SUPPORT. One lemma per field and update of the state, true by rfl: what each shared operation of Machine/Ops.lean writes
and what it leaves. -/

namespace Sys2Proof.Machine

/-! ### An exchange -/

@[simp] theorem State.exchange_alen (s : State) (op : Byte) (out : List Byte) (nin : Nat) :
    (s.exchange op out nin).alen = s.alen := rfl
@[simp] theorem State.exchange_txAddr (s : State) (op : Byte) (out : List Byte) (nin : Nat) :
    (s.exchange op out nin).txAddr = s.txAddr := rfl
@[simp] theorem State.exchange_rxAddr (s : State) (op : Byte) (out : List Byte) (nin : Nat) :
    (s.exchange op out nin).rxAddr = s.rxAddr := rfl
@[simp] theorem State.exchange_rxAlen (s : State) (op : Byte) (out : List Byte) (nin : Nat) :
    (s.exchange op out nin).rxAlen = s.rxAlen := rfl
@[simp] theorem State.exchange_crcOn (s : State) (op : Byte) (out : List Byte) (nin : Nat) :
    (s.exchange op out nin).crcOn = s.crcOn := rfl
@[simp] theorem State.exchange_cfgMirror (s : State) (op : Byte) (out : List Byte) (nin : Nat) :
    (s.exchange op out nin).cfgMirror = s.cfgMirror := rfl
@[simp] theorem State.exchange_res (s : State) (op : Byte) (out : List Byte) (nin : Nat) :
    (s.exchange op out nin).res = s.res := rfl
@[simp] theorem State.exchange_rxMsg (s : State) (op : Byte) (out : List Byte) (nin : Nat) :
    (s.exchange op out nin).rxMsg = s.rxMsg := rfl
@[simp] theorem State.exchange_status (s : State) (op : Byte) (out : List Byte) (nin : Nat) :
    (s.exchange op out nin).status = some (s.nextDraw 0) := rfl
@[simp] theorem State.exchange_faultCode (s : State) (op : Byte) (out : List Byte) (nin : Nat) :
    (s.exchange op out nin).faultCode = s.faultCode := rfl
@[simp] theorem State.exchange_faultOpc (s : State) (op : Byte) (out : List Byte) (nin : Nat) :
    (s.exchange op out nin).faultOpc = s.faultOpc := rfl
@[simp] theorem State.exchange_busLog (s : State) (op : Byte) (out : List Byte) (nin : Nat) :
    (s.exchange op out nin).busLog = s.busLog ++ [⟨op, out, nin, s.nextDraw 0, s.drawnBytes nin⟩] := rfl
@[simp] theorem State.exchange_config (s : State) (op : Byte) (out : List Byte) (nin : Nat) :
    (s.exchange op out nin).config = s.config := rfl
@[simp] theorem State.exchange_port (s : State) (op : Byte) (out : List Byte) (nin : Nat) :
    (s.exchange op out nin).port = s.port := rfl
@[simp] theorem State.exchange_responses (s : State) (op : Byte) (out : List Byte) (nin : Nat) :
    (s.exchange op out nin).responses = s.responses.drop (nin + 1) := rfl
@[simp] theorem State.exchange_drawCount (s : State) (op : Byte) (out : List Byte) (nin : Nat) :
    (s.exchange op out nin).drawCount = s.drawCount + (nin + 1) := rfl

/-! ### A fault -/

@[simp] theorem State.raise_alen (s : State) (f : BlockFault) (opc : Byte) : (s.raise f opc).alen = s.alen := rfl
@[simp] theorem State.raise_txAddr (s : State) (f : BlockFault) (opc : Byte) : (s.raise f opc).txAddr = s.txAddr := rfl
@[simp] theorem State.raise_rxAddr (s : State) (f : BlockFault) (opc : Byte) : (s.raise f opc).rxAddr = s.rxAddr := rfl
@[simp] theorem State.raise_rxAlen (s : State) (f : BlockFault) (opc : Byte) : (s.raise f opc).rxAlen = s.rxAlen := rfl
@[simp] theorem State.raise_crcOn (s : State) (f : BlockFault) (opc : Byte) : (s.raise f opc).crcOn = s.crcOn := rfl
@[simp] theorem State.raise_cfgMirror (s : State) (f : BlockFault) (opc : Byte) :
    (s.raise f opc).cfgMirror = s.cfgMirror := rfl
@[simp] theorem State.raise_res (s : State) (f : BlockFault) (opc : Byte) : (s.raise f opc).res = s.res := rfl
@[simp] theorem State.raise_rxMsg (s : State) (f : BlockFault) (opc : Byte) : (s.raise f opc).rxMsg = s.rxMsg := rfl
@[simp] theorem State.raise_status (s : State) (f : BlockFault) (opc : Byte) : (s.raise f opc).status = s.status := rfl
@[simp] theorem State.raise_faultCode (s : State) (f : BlockFault) (opc : Byte) : (s.raise f opc).faultCode = f.code := rfl
@[simp] theorem State.raise_faultOpc (s : State) (f : BlockFault) (opc : Byte) : (s.raise f opc).faultOpc = opc := rfl
@[simp] theorem State.raise_busLog (s : State) (f : BlockFault) (opc : Byte) : (s.raise f opc).busLog = s.busLog := rfl
@[simp] theorem State.raise_config (s : State) (f : BlockFault) (opc : Byte) : (s.raise f opc).config = s.config := rfl
@[simp] theorem State.raise_port (s : State) (f : BlockFault) (opc : Byte) : (s.raise f opc).port = s.port := rfl
@[simp] theorem State.raise_responses (s : State) (f : BlockFault) (opc : Byte) :
    (s.raise f opc).responses = s.responses := rfl
@[simp] theorem State.raise_drawCount (s : State) (f : BlockFault) (opc : Byte) :
    (s.raise f opc).drawCount = s.drawCount := rfl

/-! ### A result -/

@[simp] theorem State.setRes_alen (s : State) (w : Word) : (s.setRes w).alen = s.alen := rfl
@[simp] theorem State.setRes_txAddr (s : State) (w : Word) : (s.setRes w).txAddr = s.txAddr := rfl
@[simp] theorem State.setRes_rxAddr (s : State) (w : Word) : (s.setRes w).rxAddr = s.rxAddr := rfl
@[simp] theorem State.setRes_rxAlen (s : State) (w : Word) : (s.setRes w).rxAlen = s.rxAlen := rfl
@[simp] theorem State.setRes_crcOn (s : State) (w : Word) : (s.setRes w).crcOn = s.crcOn := rfl
@[simp] theorem State.setRes_cfgMirror (s : State) (w : Word) : (s.setRes w).cfgMirror = s.cfgMirror := rfl
@[simp] theorem State.setRes_res (s : State) (w : Word) : (s.setRes w).res = some w := rfl
@[simp] theorem State.setRes_rxMsg (s : State) (w : Word) : (s.setRes w).rxMsg = s.rxMsg := rfl
@[simp] theorem State.setRes_status (s : State) (w : Word) : (s.setRes w).status = s.status := rfl
@[simp] theorem State.setRes_faultCode (s : State) (w : Word) : (s.setRes w).faultCode = s.faultCode := rfl
@[simp] theorem State.setRes_faultOpc (s : State) (w : Word) : (s.setRes w).faultOpc = s.faultOpc := rfl
@[simp] theorem State.setRes_busLog (s : State) (w : Word) : (s.setRes w).busLog = s.busLog := rfl
@[simp] theorem State.setRes_config (s : State) (w : Word) : (s.setRes w).config = s.config := rfl
@[simp] theorem State.setRes_port (s : State) (w : Word) : (s.setRes w).port = s.port := rfl
@[simp] theorem State.setRes_responses (s : State) (w : Word) : (s.setRes w).responses = s.responses := rfl
@[simp] theorem State.setRes_drawCount (s : State) (w : Word) : (s.setRes w).drawCount = s.drawCount := rfl

/-! ### An 8-bit result -/

@[simp] theorem State.setResByte_alen (s : State) (b : Byte) : (s.setResByte b).alen = s.alen := rfl
@[simp] theorem State.setResByte_txAddr (s : State) (b : Byte) : (s.setResByte b).txAddr = s.txAddr := rfl
@[simp] theorem State.setResByte_rxAddr (s : State) (b : Byte) : (s.setResByte b).rxAddr = s.rxAddr := rfl
@[simp] theorem State.setResByte_rxAlen (s : State) (b : Byte) : (s.setResByte b).rxAlen = s.rxAlen := rfl
@[simp] theorem State.setResByte_crcOn (s : State) (b : Byte) : (s.setResByte b).crcOn = s.crcOn := rfl
@[simp] theorem State.setResByte_cfgMirror (s : State) (b : Byte) : (s.setResByte b).cfgMirror = s.cfgMirror := rfl
@[simp] theorem State.setResByte_res (s : State) (b : Byte) : (s.setResByte b).res = some (b.setWidth 16) := rfl
@[simp] theorem State.setResByte_rxMsg (s : State) (b : Byte) : (s.setResByte b).rxMsg = s.rxMsg := rfl
@[simp] theorem State.setResByte_status (s : State) (b : Byte) : (s.setResByte b).status = s.status := rfl
@[simp] theorem State.setResByte_faultCode (s : State) (b : Byte) : (s.setResByte b).faultCode = s.faultCode := rfl
@[simp] theorem State.setResByte_faultOpc (s : State) (b : Byte) : (s.setResByte b).faultOpc = s.faultOpc := rfl
@[simp] theorem State.setResByte_busLog (s : State) (b : Byte) : (s.setResByte b).busLog = s.busLog := rfl
@[simp] theorem State.setResByte_config (s : State) (b : Byte) : (s.setResByte b).config = s.config := rfl
@[simp] theorem State.setResByte_port (s : State) (b : Byte) : (s.setResByte b).port = s.port := rfl
@[simp] theorem State.setResByte_responses (s : State) (b : Byte) : (s.setResByte b).responses = s.responses := rfl
@[simp] theorem State.setResByte_drawCount (s : State) (b : Byte) : (s.setResByte b).drawCount = s.drawCount := rfl

/-! ### Reset -/

@[simp] theorem State.resetBlock_alen (s : State) : s.resetBlock.alen = none := rfl
@[simp] theorem State.resetBlock_txAddr (s : State) : s.resetBlock.txAddr = Vector.replicate 5 none := rfl
@[simp] theorem State.resetBlock_rxAddr (s : State) : s.resetBlock.rxAddr = Vector.replicate 5 none := rfl
@[simp] theorem State.resetBlock_rxAlen (s : State) : s.resetBlock.rxAlen = none := rfl
@[simp] theorem State.resetBlock_crcOn (s : State) : s.resetBlock.crcOn = none := rfl
@[simp] theorem State.resetBlock_cfgMirror (s : State) : s.resetBlock.cfgMirror = none := rfl
@[simp] theorem State.resetBlock_res (s : State) : s.resetBlock.res = none := rfl
@[simp] theorem State.resetBlock_rxMsg (s : State) : s.resetBlock.rxMsg = none := rfl
@[simp] theorem State.resetBlock_status (s : State) : s.resetBlock.status = none := rfl
@[simp] theorem State.resetBlock_faultCode (s : State) : s.resetBlock.faultCode = 0#8 := rfl
@[simp] theorem State.resetBlock_faultOpc (s : State) : s.resetBlock.faultOpc = 0#8 := rfl
@[simp] theorem State.resetBlock_busLog (s : State) : s.resetBlock.busLog = [] := rfl
@[simp] theorem State.resetBlock_config (s : State) : s.resetBlock.config = s.config := rfl
@[simp] theorem State.resetBlock_port (s : State) : s.resetBlock.port = s.port := rfl
@[simp] theorem State.resetBlock_responses (s : State) : s.resetBlock.responses = s.responses := rfl
@[simp] theorem State.resetBlock_drawCount (s : State) : s.resetBlock.drawCount = s.drawCount := rfl

end Sys2Proof.Machine
end

