-- ==== Sys2Proof/Laws/Ops.lean ====
section
/-! SUPPORT. What the shared operations of Machine/Ops.lean can do: running a command, raising a fault, drawing. -/

namespace Sys2Proof.Machine

theorem State.halted_iff (s : State) : s.halted = true ↔ s.faultCode ≠ 0#8 := by simp [State.halted]

theorem State.not_halted_iff (s : State) : s.halted = false ↔ s.faultCode = 0#8 := by simp [State.halted]

/-- A command always answers a next state: the effect, or the same state when the block is halted. -/
theorem State.issue_next {s e t : State} (h : s.issue e = .next t) :
    (s.halted = true ∧ t = s) ∨ (s.halted = false ∧ t = e) := by
  simp only [State.issue, Host.Outcome.next.injEq] at h
  cases hh : s.halted <;> simp_all

theorem State.issue_halted {s e : State} (h : s.faultCode ≠ 0#8) : s.issue e = .next s := by
  simp [State.issue, (State.halted_iff s).2 h]

theorem State.issue_running {s e : State} (h : s.faultCode = 0#8) : s.issue e = .next e := by
  simp [State.issue, (State.not_halted_iff s).2 h]

@[simp] theorem State.drawnBytes_length (s : State) (n : Nat) : (s.drawnBytes n).length = n := by
  simp [State.drawnBytes]

/-- Every fault has a code other than "none recorded" (R200). -/
theorem BlockFault.code_ne_zero (f : BlockFault) : f.code ≠ 0#8 := by cases f <;> decide

theorem BlockFault.code_le (f : BlockFault) : f.code.toNat ≤ 8 := by cases f <;> decide

/-- A raised fault halts the block (R202). -/
theorem State.raise_halted (s : State) (f : BlockFault) (opc : Byte) : (s.raise f opc).halted = true :=
  (State.halted_iff _).2 f.code_ne_zero

/-- The transceiver's listed answers are drawn first, in order (R171). -/
theorem State.nextDraw_listed {s : State} {k : Nat} {b : Byte} (h : s.responses[k]? = some b) : s.nextDraw k = b := by
  simp [State.nextDraw, h]

end Sys2Proof.Machine
end

