-- ==== Sys2Proof/Laws/Framing.lean ====
section
/-! SUPPORT. What the framer's datapath functions give (40_framer.md R101 to R109), and when the checks of the two payload
commands pass. -/

namespace Sys2Proof.Machine

/-! ### Bit reversal -/

/-- Bit `i` of the reversal is bit `7 - i` (R101). -/
theorem rev8_getLsbD (b : Byte) (i : Fin 8) : (rev8 b).getLsbD i = b.getLsbD (7 - i) := by
  have h : ∀ a0 a1 a2 a3 a4 a5 a6 a7 : Bool, ∀ i : Fin 8,
      (BitVec.ofBoolListBE [a0, a1, a2, a3, a4, a5, a6, a7]).getLsbD i =
        [a0, a1, a2, a3, a4, a5, a6, a7].getD (7 - i) false := by decide
  rw [rev8, h]
  fin_cases i <;> rfl

/-- Bit reversal distributes over XOR (R109). -/
theorem rev8_xor (a b : Byte) : rev8 (a ^^^ b) = rev8 a ^^^ rev8 b := by
  apply BitVec.eq_of_getLsbD_eq
  intro i hi
  have h1 := rev8_getLsbD (a ^^^ b) ⟨i, hi⟩
  have h2 := rev8_getLsbD a ⟨i, hi⟩
  have h3 := rev8_getLsbD b ⟨i, hi⟩
  simp only [BitVec.getLsbD_xor] at h1 h2 h3 ⊢
  rw [h1, h2, h3]

/-! ### Table reads -/

/-- A scramble read inside the table gives its entry (R52). -/
theorem romS_inside (cfg : Config) {i : Nat} (h : i < 35) : romS cfg i = .ok cfg.scramble[i] := by
  simp [romS, Vector.getElem?_eq_getElem h]

/-- A scramble read outside the table is its fault (R52). -/
theorem romS_outside (cfg : Config) {i : Nat} (h : 35 ≤ i) : romS cfg i = .error .scrambleIndex := by
  simp [romS, Vector.getElem?_eq_none h]

/-- An XOR-out read inside the table gives its entry (R53). -/
theorem romX_inside (cfg : Config) {i : Nat} (h : i < nXorout cfg) : romX cfg i = .ok cfg.xorout[i] := by
  simp [romX, List.getElem?_eq_getElem h]

/-- An XOR-out read outside the table is its fault (R53). -/
theorem romX_outside (cfg : Config) {i : Nat} (h : nXorout cfg ≤ i) : romX cfg i = .error .xoroutIndex := by
  simp [romX, List.getElem?_eq_none h]

/-! ### Scrambling a run of bytes -/

/-- Inside the table, scrambling succeeds and gives one byte per byte (R52, R102). -/
theorem scrambleFrom_inside (cfg : Config) : ∀ (l : List Byte) (k : Nat), (0 < l.length → k + l.length ≤ 35) →
    ∃ r, scrambleFrom cfg k l = .ok r ∧ r.length = l.length
  | [], _, _ => ⟨[], rfl, rfl⟩
  | b :: bs, k, h => by
    simp only [List.length_cons] at h
    obtain ⟨r, hr, hl⟩ := scrambleFrom_inside cfg bs (k + 1) (by omega)
    exact ⟨(b ^^^ cfg.scramble[k]) :: r, by simp [scrambleFrom, romS_inside cfg (show k < 35 by omega), hr], by simp [hl]⟩

/-- Byte `i` of a scrambled run is byte `i` XORed with entry `k + i` (R102). -/
theorem scrambleFrom_getElem (cfg : Config) : ∀ {l : List Byte} {k : Nat} {r : List Byte},
    scrambleFrom cfg k l = .ok r → ∀ {i : Nat} {b : Byte}, l[i]? = some b →
    ∃ x, romS cfg (k + i) = .ok x ∧ r[i]? = some (b ^^^ x)
  | [], _, _, _, i, b, hb => by simp at hb
  | c :: cs, k, r, h, i, b, hb => by
    unfold scrambleFrom at h
    cases hx : romS cfg k with
    | error e => simp [hx] at h
    | ok x =>
      cases hr : scrambleFrom cfg (k + 1) cs with
      | error e => simp [hx, hr] at h
      | ok r' =>
        simp only [hx, hr, Except.ok.injEq] at h
        subst h
        cases i with
        | zero => simp at hb; subst hb; exact ⟨x, by simpa using hx, rfl⟩
        | succ j =>
          obtain ⟨y, hy, hj⟩ := scrambleFrom_getElem cfg hr (i := j) (by simpa using hb)
          exact ⟨y, by rwa [show k + (j + 1) = k + 1 + j by omega], by simpa using hj⟩

theorem scrambleFrom_length (cfg : Config) {l : List Byte} {k : Nat} {r : List Byte}
    (h : scrambleFrom cfg k l = .ok r) : r.length = l.length := by
  induction l generalizing k r with
  | nil => simp only [scrambleFrom, Except.ok.injEq] at h; subst h; rfl
  | cons c cs ih =>
    unfold scrambleFrom at h
    split at h
    · cases h
    · split at h
      · cases h
      · rename_i hr
        simp only [Except.ok.injEq] at h
        subst h
        simp [ih hr]

/-! ### De-framing a run of bytes -/

/-- Inside the table, de-framing succeeds and gives one byte per byte (R109). -/
theorem unframeFrom_inside (cfg : Config) (alen : Nat) : ∀ (l : List Byte) (i : Nat), (0 < l.length → alen + i + l.length ≤ 35) →
    ∃ r, unframeFrom cfg alen i l = .ok r ∧ r.length = l.length
  | [], _, _ => ⟨[], rfl, rfl⟩
  | b :: bs, i, h => by
    simp only [List.length_cons] at h
    obtain ⟨r, hr, hl⟩ := unframeFrom_inside cfg alen bs (i + 1) (by omega)
    exact ⟨rev8 (b ^^^ cfg.scramble[alen + i]) :: r,
      by simp [unframeFrom, unframe, romS_inside cfg (show alen + i < 35 by omega), hr], by simp [hl]⟩

/-! ### The frame -/

/-- A frame whose table reads are inside the tables is built (R106). -/
theorem frame_inside (cfg : Config) {alen : Nat} {tx msg : List Byte} {crcOn : Bool} (ht : tx.length ≤ 35)
    (hs : 0 < msg.length → alen + msg.length ≤ 35) (hx : crcOn = true → alen - alenMin + msg.length < nXorout cfg) :
    ∃ f, frame cfg alen tx msg crcOn = .ok f := by
  obtain ⟨a, ha, _⟩ := scrambleFrom_inside cfg tx.reverse 0 (fun _ => by simpa using ht)
  obtain ⟨p, hp, _⟩ := scrambleFrom_inside cfg (msg.map rev8) alen (by simpa using hs)
  cases crcOn with
  | false => exact ⟨_, by simp only [frame, ha, hp]; rfl⟩
  | true => exact ⟨_, by simp only [frame, ha, hp, frameCrc, romX_inside cfg (hx rfl)]; rfl⟩

/-- A frame that is built is its four parts (R106). -/
theorem frame_parts {cfg : Config} {alen : Nat} {tx msg f : List Byte} {crcOn : Bool}
    (h : frame cfg alen tx msg crcOn = .ok f) :
    ∃ a p, scrambleFrom cfg 0 tx.reverse = .ok a ∧ scrambleFrom cfg alen (msg.map rev8) = .ok p ∧
      ((crcOn = false ∧ f = frameLead cfg alen ++ a ++ p) ∨
       (crcOn = true ∧ ∃ x, romX cfg (alen - alenMin + msg.length) = .ok x ∧
          f = frameLead cfg alen ++ a ++ p ++
            [(crc16 crcInit (a ++ p) ^^^ x).extractLsb' 8 8, (crc16 crcInit (a ++ p) ^^^ x).extractLsb' 0 8])) := by
  unfold frame at h
  cases ha : scrambleFrom cfg 0 tx.reverse with
  | error e => simp [ha] at h
  | ok a =>
    cases hp : scrambleFrom cfg alen (msg.map rev8) with
    | error e => simp [ha, hp] at h
    | ok p =>
      refine ⟨a, p, rfl, rfl, ?_⟩
      simp only [ha, hp] at h
      cases crcOn with
      | false => simp at h; left; simp [← h]
      | true =>
        cases hx : romX cfg (alen - alenMin + msg.length) with
        | error e => simp [frameCrc, hx] at h
        | ok x => simp [frameCrc, hx] at h; right; exact ⟨rfl, x, rfl, by simp [← h]⟩

theorem frameLead_length (cfg : Config) (alen : Nat) : (frameLead cfg alen).length = leadLength alen := by
  unfold frameLead leadLength; split <;> rfl

@[simp] theorem pre5_length (cfg : Config) (alen : Nat) : (pre5 cfg alen).length = 5 := by
  unfold pre5; split <;> simp

/-! ### The address registers -/

theorem addrLenOk_iff (a : List Byte) : addrLenOk a = true ↔ 3 ≤ a.length ∧ a.length ≤ 5 := by
  unfold addrLenOk alenMin alenMax
  rw [Bool.and_eq_true, decide_eq_true_eq, decide_eq_true_eq]

theorem addrLenByte_toNat {a : List Byte} (h : addrLenOk a = true) : (addrLenByte a).toNat = a.length := by
  have := (addrLenOk_iff a).1 h
  simp [addrLenByte]; omega

end Sys2Proof.Machine
end

