-- ==== Sys2Proof/Laws/Operands.lean ====
section
/-! SUPPORT. When the transmit address can be read (40_framer.md R113 check 2). -/

namespace Sys2Proof.Machine

theorem mapM_range_some {α : Type} (f : Nat → Option α) : ∀ (n : Nat) (g : List α), g.length = n →
    (∀ i, i < n → ∃ b, g[i]? = some b ∧ f i = some b) → (List.range n).mapM f = some g
  | 0, g, hl, _ => by rw [List.length_eq_zero_iff.1 hl]; rfl
  | n + 1, g, hl, h => by
    obtain ⟨b, hb, hf⟩ := h n (by omega)
    have hg : g.take n ++ [b] = g := by
      rw [← List.take_append_drop n g, List.take_left' (by simp; omega)]
      congr 1
      rw [List.drop_eq_getElem_cons (by omega), List.drop_eq_nil_of_le (by omega)]
      rw [List.getElem?_eq_getElem (by omega), Option.some.injEq] at hb
      rw [hb]
    rw [List.range_succ, List.mapM_append, mapM_range_some f n (g.take n) (by simp; omega) fun i hi => by
      obtain ⟨c, hc, hfc⟩ := h i (by omega)
      exact ⟨c, by rw [List.getElem?_take_of_lt hi, hc], hfc⟩]
    simp [hf, hg]

theorem mapM_range_none {α : Type} (f : Nat → Option α) {i : Nat} (hf : f i = none) : ∀ n, i < n →
    (List.range n).mapM f = none
  | 0, h => by omega
  | n + 1, h => by
    rw [List.range_succ, List.mapM_append]
    by_cases e : i < n
    · simp [mapM_range_none f hf n e]
    · simp [show n = i by omega, hf]

theorem mapM_range_length {α : Type} {f : Nat → Option α} : ∀ {n : Nat} {g : List α},
    (List.range n).mapM f = some g → g.length = n
  | 0, g, h => by simp at h; simp [h]
  | n + 1, g, h => by
    rw [List.range_succ, List.mapM_append] at h
    cases e : (List.range n).mapM f with
    | none => simp [e] at h
    | some g' =>
      cases e2 : f n with
      | none => simp [e, e2] at h
      | some b => simp [e, e2] at h; subst h; simp [mapM_range_length e]

/-- The transmit address reads when every byte of it has been written. -/
theorem State.txBytes_written {s : State} {n : Nat} {tx : List Byte} (hl : tx.length = n)
    (h : ∀ i, i < n → ∃ b, tx[i]? = some b ∧ s.txAddr[i]? = some (some b)) : s.txBytes n = some tx :=
  mapM_range_some _ _ _ hl fun i hi => by
    obtain ⟨b, h1, h2⟩ := h i hi
    exact ⟨b, h1, by simp [State.txByte, h2]⟩

/-- It does not when one byte of it has not. -/
theorem State.txBytes_unwritten {s : State} {n i : Nat} (hi : i < n) (h : ∀ b, s.txAddr[i]? ≠ some (some b)) :
    s.txBytes n = none := by
  refine mapM_range_none _ ?_ _ hi
  unfold State.txByte
  cases e : s.txAddr[i]? with
  | none => rfl
  | some o => cases o with
    | none => rfl
    | some b => exact absurd e (h b)

theorem State.txBytes_length {s : State} {n : Nat} {tx : List Byte} (h : s.txBytes n = some tx) : tx.length = n :=
  mapM_range_length h

end Sys2Proof.Machine
end

