-- ==== Sys2Proof/Laws/PerInstr.lean ====
section
/-! SUPPORT. The family `Spelling`, one lemma per constructor: a well-formed instruction is spelled with the length its
opcode requires (30_encoding.md R70, R75), or as an exchange within the bus bound (43_bus.md R170). -/

namespace Sys2Proof.Laws.Spelling

/-- The spelling of `i` has the length its opcode byte and byte 1 require, or carries at most 31 data bytes one way. -/
def Statement (i : Instr) : Prop :=
  i.WellFormed →
  match encode i with
  | .command [] => False
  | .command (op :: rest) =>
    ∃ c, Cmd.ofByte op = some c ∧ (op :: rest).length = c.format.length (rest.headD 0#8)
  | .bus _ out nin => out.length + nin ≤ Machine.maxData ∧ (out.length = 0 ∨ nin = 0)

theorem counted {c : Cmd} (a : List Byte) (hc : Cmd.ofByte c.byte = some c)
    (hf : ∀ b, c.format.length b = 2 + b.toNat) (h : a.length ≤ 255) :
    ∃ d, Cmd.ofByte c.byte = some d ∧
      (c.byte :: BitVec.ofNat 8 a.length :: a).length = d.format.length (BitVec.ofNat 8 a.length) := by
  refine ⟨c, hc, ?_⟩
  rw [hf]
  simp only [List.length_cons, BitVec.toNat_ofNat]
  omega

theorem setTxAddr (a : List Byte) : Statement (.setTxAddr a) := fun h =>
  counted a rfl (fun _ => rfl) (by simpa [Instr.WellFormed, Instr.wellFormed] using h)
theorem setRxAddr (a : List Byte) : Statement (.setRxAddr a) := fun h =>
  counted a rfl (fun _ => rfl) (by simpa [Instr.WellFormed, Instr.wellFormed] using h)
theorem configure (b : Byte) : Statement (.configure b) := fun _ => ⟨.configure, rfl, rfl⟩
theorem writePayload (m : List Byte) : Statement (.writePayload m) := fun h =>
  counted m rfl (fun _ => rfl) (by simpa [Instr.WellFormed, Instr.wellFormed] using h)
theorem readPayload (len : Byte) : Statement (.readPayload len) := fun _ => ⟨.readPayload, rfl, rfl⟩
theorem qCx10 (ch : Word) : Statement (.qCx10 ch) := fun _ => ⟨.qCx10, rfl, rfl⟩
theorem qSymax (ch : Word) : Statement (.qSymax ch) := fun _ => ⟨.qSymax, rfl, rfl⟩
theorem qSymaxThr (ch : Word) : Statement (.qSymaxThr ch) := fun _ => ⟨.qSymaxThr, rfl, rfl⟩
theorem qYd717 (ch : Word) : Statement (.qYd717 ch) := fun _ => ⟨.qYd717, rfl, rfl⟩
theorem qFlag (ch : Word) : Statement (.qFlag ch) := fun _ => ⟨.qFlag, rfl, rfl⟩
theorem qMode (ch : Word) : Statement (.qMode ch) := fun _ => ⟨.qMode, rfl, rfl⟩
theorem ckSymaxXor (d : List Byte) : Statement (.ckSymaxXor d) := fun h =>
  counted d rfl (fun _ => rfl) (by simpa [Instr.WellFormed, Instr.wellFormed] using h)
theorem ckSymaxAdd (d : List Byte) : Statement (.ckSymaxAdd d) := fun h =>
  counted d rfl (fun _ => rfl) (by simpa [Instr.WellFormed, Instr.wellFormed] using h)
theorem ckYd717 (d : List Byte) : Statement (.ckYd717 d) := fun h =>
  counted d rfl (fun _ => rfl) (by simpa [Instr.WellFormed, Instr.wellFormed] using h)
theorem crc16Raw (d : List Byte) : Statement (.crc16Raw d) := fun h =>
  counted d rfl (fun _ => rfl) (by simpa [Instr.WellFormed, Instr.wellFormed] using h)
theorem bitrev8 (b : Byte) : Statement (.bitrev8 b) := fun _ => ⟨.bitrev8, rfl, rfl⟩
theorem busRreg (r : BitVec 5) (nin : Nat) : Statement (.busRreg r nin) := fun h => by
  simpa [encode, Instr.WellFormed, Instr.wellFormed] using h
theorem busWreg (r : BitVec 5) (out : List Byte) : Statement (.busWreg r out) := fun h => by
  simp only [Instr.WellFormed, Instr.wellFormed, decide_eq_true_eq] at h
  exact ⟨h.2, .inr rfl⟩
theorem busRpayload (nin : Nat) : Statement (.busRpayload nin) := fun h => by
  simpa [encode, Instr.WellFormed, Instr.wellFormed] using h
theorem busWpayload (out : List Byte) : Statement (.busWpayload out) := fun h => by
  simp only [Instr.WellFormed, Instr.wellFormed, decide_eq_true_eq] at h
  exact ⟨h.2, .inr rfl⟩
theorem busFlushTx : Statement .busFlushTx := fun _ => ⟨Nat.zero_le _, .inr rfl⟩
theorem busFlushRx : Statement .busFlushRx := fun _ => ⟨Nat.zero_le _, .inr rfl⟩
theorem busActivate (code : ActivateCode) : Statement (.busActivate code) := fun _ => ⟨show (1 : Nat) ≤ 31 by decide, .inr rfl⟩
theorem busNop : Statement .busNop := fun _ => ⟨Nat.zero_le _, .inr rfl⟩

end Sys2Proof.Laws.Spelling
end

