-- ==== Sys2Proof/Laws/Step.lean ====
section
/-! SUPPORT. What an instruction and a step can do, said once: every instruction answers a next state; the state is the one
before, one with a fault taken, one with a result, or one with an exchange. -/

namespace Sys2Proof.Machine

/-- A halted block does nothing with an instruction (R202). -/
theorem exec_halted (i : Instr) {s : State} (h : s.faultCode ≠ 0#8) : exec i s = .next s := by
  cases i <;> exact State.issue_halted h

/-- Every instruction answers a next state, in every state. -/
theorem exec_next (i : Instr) (s : State) : ∃ t, exec i s = .next t := by
  cases i <;> exact ⟨_, rfl⟩

/-- What an instruction does to a block that is not halted. -/
inductive Effect (i : Instr) (s : State) : State → Prop
  /-- BUS_RREG, BUS_FLUSH_TX, BUS_FLUSH_RX, BUS_ACTIVATE, BUS_NOP (R175 to R178). -/
  | none (h : ∀ bytes, encode i ≠ .command bytes) : Effect i s s
  /-- A command with a check of its own takes a fault, with its own opcode byte (R200, R201). -/
  | fault (f : BlockFault) (op : Byte) (rest : List Byte) (h : encode i = .command (op :: rest))
      (hc : (∃ a, i = .setTxAddr a) ∨ (∃ a, i = .setRxAddr a) ∨ (∃ m, i = .writePayload m) ∨ (∃ len, i = .readPayload len) ∨
        ∃ d, i = .ckYd717 d) : Effect i s (s.raise f op)
  /-- A quantize, checksum or test-access command (R30). -/
  | result (w : Word) (op : Byte) (rest : List Byte) (h : encode i = .command (op :: rest)) (ho : 0x10 ≤ op.toNat) :
      Effect i s (s.setRes w)
  /-- SET_TX_ADDR with 3 to 5 bytes (R110). -/
  | txAddr (a : List Byte) (h : i = .setTxAddr a) (ha : addrLenOk a = true) :
      Effect i s (State.exchange { s with txAddr := addrRegs a, alen := some (addrLenByte a) }
        (wregOpcode s.config.regTxAddr) (pre5 s.config a.length) 0)
  /-- SET_RX_ADDR with 3 to 5 bytes (R111). -/
  | rxAddr (a : List Byte) (h : i = .setRxAddr a) (ha : addrLenOk a = true) :
      Effect i s (State.exchange
        { s with
          rxAddr := addrRegs a
          rxAlen := some (addrLenByte a)
          alen := if s.config.alenOnRxSet then some (addrLenByte a) else s.alen }
        (wregOpcode s.config.regRxAddr) (pre5 s.config a.length) 0)
  /-- CONFIGURE (R112). -/
  | config (b : Byte) (h : i = .configure b) : Effect i s (configure b s)
  /-- WRITE_PAYLOAD that sends (R113). -/
  | write (m f : List Byte) (h : i = .writePayload m) (hf : writeFrame m s = .ok f) :
      Effect i s (s.exchange wpayloadOpcode f 0)
  /-- READ_PAYLOAD that reads (R114). -/
  | read (len : Byte) (l : List Byte) (h : i = .readPayload len) (hl : readMessage len s = .ok l) :
      Effect i s (State.exchange { s with rxMsg := some l } rpayloadOpcode [] len.toNat)
  /-- BUS_WREG (R172). -/
  | busWreg (r : BitVec 5) (out : List Byte) (h : i = .busWreg r out) :
      Effect i s (s.exchange (wregOpcode (r.setWidth 8)) out 0)
  /-- BUS_WPAYLOAD (R173). -/
  | busWpayload (out : List Byte) (h : i = .busWpayload out) : Effect i s (s.exchange wpayloadOpcode out 0)
  /-- BUS_RPAYLOAD (R174). -/
  | busRpayload (nin : Nat) (h : i = .busRpayload nin) : Effect i s (s.exchange rpayloadOpcode [] nin)

/-- The inversion lemma of `exec`. -/
theorem exec_effect {i : Instr} {s t : State} (hf : s.faultCode = 0#8) (h : exec i s = .next t) : Effect i s t := by
  cases i <;> simp only [exec, execSetTxAddr, execSetRxAddr, execConfigure, execWritePayload, execReadPayload, execQCx10,
    execQSymax, execQSymaxThr, execQYd717, execQFlag, execQMode, execCkSymaxXor, execCkSymaxAdd, execCkYd717, execCrc16Raw,
    execBitrev8, execBusRreg, execBusWreg, execBusRpayload, execBusWpayload, execBusFlushTx, execBusFlushRx, execBusActivate,
    execBusNop, State.issue_running hf, Host.Outcome.next.injEq] at h <;> subst h
  case setTxAddr a =>
    unfold setTxAddr
    split
    · rename_i ha; exact .txAddr a rfl ha
    · exact .fault _ _ _ rfl (by simp)
  case setRxAddr a =>
    unfold setRxAddr
    split
    · rename_i ha; exact .rxAddr a rfl ha
    · exact .fault _ _ _ rfl (by simp)
  case configure b => exact .config b rfl
  case writePayload m =>
    unfold writePayload
    split
    · rename_i f hw; exact .write m f rfl hw
    · exact .fault _ _ _ rfl (by simp)
  case readPayload len =>
    unfold readPayload
    split
    · rename_i l hl; exact .read len l rfl hl
    · exact .fault _ _ _ rfl (by simp)
  case ckYd717 d =>
    split
    · exact .result _ _ _ rfl (by decide)
    · exact .fault _ _ _ rfl (by simp)
  case busWreg r out => exact .busWreg r out rfl
  case busWpayload out => exact .busWpayload out rfl
  case busRpayload nin => exact .busRpayload nin rfl
  case busRreg => exact .none (fun _ h => by cases h)
  case busFlushTx => exact .none (fun _ h => by cases h)
  case busFlushRx => exact .none (fun _ h => by cases h)
  case busActivate => exact .none (fun _ h => by cases h)
  case busNop => exact .none (fun _ h => by cases h)
  all_goals exact .result _ _ _ rfl (by decide)

/-- What a step can do: wait, reset, run the instruction at the head of the port, refuse the input of a halted block (R202),
or take ILLEGAL_OPCODE or CMD_LENGTH on a command string (R203). -/
theorem step_cases {s t : State} (h : step s = .next t) :
    (s.port = [] ∧ t = s) ∨
    (∃ p, s.port = .reset :: p ∧ t = State.resetBlock { s with port := p }) ∨
    (∃ w p i, s.port = .wire w :: p ∧ decode w = .ok i ∧ s.faultCode = 0#8 ∧ exec i { s with port := p } = .next t) ∨
    (∃ w p, s.port = .wire w :: p ∧ s.faultCode ≠ 0#8 ∧ t = { s with port := p }) ∨
    (∃ bytes p f, s.port = .wire (.command bytes) :: p ∧ s.faultCode = 0#8 ∧
      t = State.raise { s with port := p } f (bytes.headD 0#8)) := by
  unfold step fetch at h
  cases hp : s.port with
  | nil => simp only [hp, Host.Outcome.next.injEq] at h; exact .inl ⟨rfl, h.symm⟩
  | cons x p =>
    right
    cases x with
    | reset => simp only [hp, Host.Outcome.next.injEq] at h; exact .inl ⟨p, rfl, h.symm⟩
    | wire w =>
      right
      simp only [hp, fetchWire] at h
      by_cases hh : s.faultCode = 0#8
      · have : ({ s with port := p } : State).halted = false := by simp [State.halted, hh]
        simp only [this, Bool.false_eq_true, if_false] at h
        cases w with
        | command bytes =>
          cases hd : decodeCommand bytes with
          | ok i => simp only [hd] at h; exact .inl ⟨_, p, i, rfl, hd, hh, h⟩
          | error e =>
            refine .inr (.inr ⟨bytes, p, ?_⟩)
            cases e <;> simp only [hd, Host.Outcome.next.injEq] at h <;> exact ⟨_, rfl, hh, h.symm⟩
        | bus op out nin =>
          cases hd : decodeBus op out nin with
          | ok i => simp only [hd] at h; exact .inl ⟨_, p, i, rfl, hd, hh, h⟩
          | error e => cases e <;> simp [hd] at h
      · have : ({ s with port := p } : State).halted = true := by simp [State.halted, hh]
        simp only [this, if_true, Host.Outcome.next.injEq] at h
        exact .inr (.inl ⟨w, p, rfl, hh, h.symm⟩)

/-- A halted block takes whatever is issued, but the reset signal, and does nothing with it. -/
theorem step_halted {s : State} {w : Wire} {p : List Input} (h : s.faultCode ≠ 0#8) (hp : s.port = .wire w :: p) :
    step s = .next { s with port := p } := by
  simp [step, fetch, hp, fetchWire, State.halted, h]

end Sys2Proof.Machine
end

