-- ==== Sys2Proof/Tests/Slice0.lean ====
section
/-! SUPPORT. The model's own tests. Expected results are the spec's vectors (95_test_vectors.md, named by their number) and
worked examples, or words written out by hand from 30_encoding.md; never the model's own answers. -/

namespace Sys2Proof.Tests

open Sys2Proof.Machine

/-! ### The candidate configuration of 95_test_vectors.md section 0 (93_implementation_defined.md G1 to G8) -/

def candScramble : Vector Byte 35 :=
  #v[0xe3, 0xb1, 0x4b, 0xea, 0x85, 0xbc, 0xe5, 0x66, 0x0d, 0xae, 0x8c, 0x88,
     0x12, 0x69, 0xee, 0x1f, 0xc7, 0x62, 0x97, 0xd5, 0x0b, 0x79, 0xca, 0xcc,
     0x1b, 0x5d, 0x19, 0x10, 0x24, 0xd3, 0xdc, 0x3f, 0x8e, 0xc5, 0x2f]

def candXorout : List Word :=
  [0x0000, 0x3448, 0x9BA7, 0x8BBB, 0x85E1, 0x3E8C, 0x451E, 0x18E6, 0x6B24, 0xE7AB, 0x3828, 0x814B, 0xD461, 0xF494] ++
  [0x2503, 0x691D, 0xFE8B, 0x9BA7, 0x8B17, 0x2920, 0x8B5F, 0x61B1, 0xD391, 0x7401, 0x2138, 0x129F, 0xB3A0, 0x2988]

def cand : Config where
  scramble := candScramble
  xorout := candXorout
  preamble := #v[0x55, 0x0F, 0x71, 0x0C, 0x00]
  leadByte := 0x55
  regTxAddr := 0x10
  regRxAddr := 0x0A
  regConfig := 0x00
  crcEnBit := 0x08
  crcStripMask := 0x0C
  symaxBiasXor := 0x55
  symaxBiasAdd := 0x00

/-- Reset, with the candidate configuration and the default draw of section 0. -/
def fresh : State := { State.reset with config := cand, responses := [0x0E, 0x0E, 0x0E] }

/-- The state a step or a meaning gives, if it gives one. -/
def after : Host.Outcome State Fault Refusal → Option State
  | .next s => some s
  | _ => none

/-- `fresh` with one command issued, after one step. -/
def ran (bytes : List Byte) : Option State := after (step { fresh with port := [.wire (.command bytes)] })

/-! ### Words written out from the encodings (R71 to R73, R77) -/

theorem test_decode_setTxAddr :
    decode (.command [0x01, 0x03, 0xA1, 0xB2, 0xC3]) = .ok (.setTxAddr [0xA1, 0xB2, 0xC3]) := by decide
theorem test_decode_setRxAddr : decode (.command [0x02, 0x03, 9, 8, 7]) = .ok (.setRxAddr [9, 8, 7]) := by decide
theorem test_decode_configure : decode (.command [0x03, 0x0E]) = .ok (.configure 0x0E) := by decide
theorem test_decode_writePayload : decode (.command [0x04, 0x00]) = .ok (.writePayload []) := by decide
theorem test_decode_readPayload : decode (.command [0x05, 0x1F]) = .ok (.readPayload 31) := by decide
theorem test_decode_qCx10 : decode (.command [0x10, 0xF0, 0xD8]) = .ok (.qCx10 (BitVec.ofInt 16 (-10000))) := by decide
theorem test_decode_qSymax : decode (.command [0x11, 0x10, 0x27]) = .ok (.qSymax 10000) := by decide
theorem test_decode_qSymaxThr : decode (.command [0x12, 0xFF, 0xFF]) = .ok (.qSymaxThr (BitVec.ofInt 16 (-1))) := by decide
theorem test_decode_qYd717 : decode (.command [0x13, 0x01, 0x00]) = .ok (.qYd717 1) := by decide
theorem test_decode_qFlag : decode (.command [0x14, 0x00, 0x80]) = .ok (.qFlag 0x8000) := by decide
theorem test_decode_qMode : decode (.command [0x15, 0x00, 0x01]) = .ok (.qMode 256) := by decide
theorem test_decode_ckSymaxXor : decode (.command [0x20, 0x03, 1, 2, 4]) = .ok (.ckSymaxXor [1, 2, 4]) := by decide
theorem test_decode_ckSymaxAdd : decode (.command [0x21, 0x02, 0xFF, 2]) = .ok (.ckSymaxAdd [0xFF, 2]) := by decide
theorem test_decode_ckYd717 : decode (.command [0x22, 0x01, 7]) = .ok (.ckYd717 [7]) := by decide
theorem test_decode_crc16Raw : decode (.command [0x30, 0x03, 1, 2, 3]) = .ok (.crc16Raw [1, 2, 3]) := by decide
theorem test_decode_bitrev8 : decode (.command [0x31, 0xE3]) = .ok (.bitrev8 0xE3) := by decide
theorem test_decode_busRreg : decode (.bus 0b00000111 [] 1) = .ok (.busRreg 7 1) := by decide
theorem test_decode_busWreg : decode (.bus 0b00110000 [0xAA] 0) = .ok (.busWreg 0x10 [0xAA]) := by decide
theorem test_decode_busRpayload : decode (.bus 0b01100001 [] 2) = .ok (.busRpayload 2) := by decide
theorem test_decode_busWpayload : decode (.bus 0b10100000 [1, 2, 3, 4] 0) = .ok (.busWpayload [1, 2, 3, 4]) := by decide
theorem test_decode_busFlushTx : decode (.bus 0b11100001 [] 0) = .ok .busFlushTx := by decide
theorem test_decode_busFlushRx : decode (.bus 0b11100010 [] 0) = .ok .busFlushRx := by decide
theorem test_decode_busActivate : decode (.bus 0b01010000 [0x73] 0) = .ok (.busActivate .features) ∧
    decode (.bus 0b01010000 [0x53] 0) = .ok (.busActivate .bankToggle) := by decide
theorem test_decode_busNop : decode (.bus 0b11111111 [] 0) = .ok .busNop := by decide

/-- R77: BUS_ACTIVATE carries 0x73 or 0x53. -/
theorem test_decode_busActivate_other : decode (.bus 0x50 [0x54] 0) = .error .busData := by decide
/-- R78: 0x80 is in no pattern of R77. -/
theorem test_decode_bus_unknown : decode (.bus 0x80 [] 0) = .error .busOpcode := by decide

/-! ### Ill-formed terms are refused by the check, and well-formed ones at the boundary are not -/

theorem test_wf_count : (Instr.ckSymaxAdd (List.replicate 256 0)).wellFormed = false := by
  simp only [Instr.wellFormed, List.length_replicate]; decide
theorem test_wf_address : (Instr.setTxAddr (List.replicate 256 0)).wellFormed = false := by
  simp only [Instr.wellFormed, List.length_replicate]; decide
theorem test_wf_payload : (Instr.writePayload (List.replicate 256 0)).wellFormed = false := by
  simp only [Instr.wellFormed, List.length_replicate]; decide
theorem test_wf_rreg : (Instr.busRreg 0 32).wellFormed = false := by decide
theorem test_wf_rpayload : (Instr.busRpayload 32).wellFormed = false := by decide
theorem test_wf_wreg_empty : (Instr.busWreg 0 []).wellFormed = false := by decide
theorem test_wf_wreg_long : (Instr.busWreg 0 (List.replicate 32 0)).wellFormed = false := by decide
theorem test_wf_wpayload_short : (Instr.busWpayload [1, 2, 3]).wellFormed = false := by decide
theorem test_wf_wpayload_long : (Instr.busWpayload (List.replicate 32 0)).wellFormed = false := by decide
theorem test_wf_boundary : (Instr.writePayload (List.replicate 255 0)).WellFormed ∧
    (Instr.busWreg 31 (List.replicate 31 0)).WellFormed ∧ (Instr.busWpayload [1, 2, 3, 4]).WellFormed := by
  refine ⟨by simp only [Instr.WellFormed, Instr.wellFormed, List.length_replicate]; decide, by decide, by decide⟩

/-! ### Table words -/

/-- The row of SET_TX_ADDR with its operand words zero: a count of 0. -/
theorem test_table_setTxAddr : decodeTableWord 8 0x01 = some (.setTxAddr []) := by decide
theorem test_table_qCx10 : decodeTableWord 24 0xD8F010 = some (.qCx10 (BitVec.ofInt 16 (-10000))) := by decide
theorem test_table_busRreg : decodeTableWord 8 0x00 = some (.busRreg 0 0) := by decide
theorem test_table_busWreg : decodeTableWord 8 0x25 = some (.busWreg 5 [0]) := by decide
theorem test_table_busActivate : decodeTableWord 16 0x7350 = some (.busActivate .features) := by decide
theorem test_table_busWpayload : decodeTableWord 8 0xA0 = some (.busWpayload [0, 0, 0, 0]) := by decide

/-! ### The assembler (R76; bytes from 95_test_vectors.md P1, P3, P7) -/

theorem test_assemble_text :
    (parseLine "SET_TX_ADDR 0xA1,0xB2, 195".toList).bind assemble = some [0x01, 0x03, 0xA1, 0xB2, 0xC3] := by decide
theorem test_assemble_channel : (parseLine "Q_YD717 -10000".toList).bind assemble = some [0x13, 0xF0, 0xD8] := by decide
theorem test_assemble_empty : (parseLine "WRITE_PAYLOAD".toList).bind assemble = some [0x04, 0x00] := by decide

/-! ### Faults (L2.10) -/

/-- E1: the empty string. -/
theorem test_E1_empty : (ran []).map (fun t => (t.faultCode, t.faultOpc)) = some (2, 0) := by decide
/-- E3: an illegal opcode faults whatever its length. -/
theorem test_E3_illegal : (ran [0x40, 1, 2, 3, 4]).map (fun t => (t.faultCode, t.faultOpc)) = some (1, 0x40) := by decide
/-- E5: BITREV8 one byte long. -/
theorem test_E5_length : (ran [0x31, 0xE3, 0x00]).map (fun t => (t.faultCode, t.faultOpc)) = some (2, 0x31) := by decide
/-- P4: a recorded fault refuses SET_TX_ADDR. -/
theorem test_P4_refused :
    (after (exec (.setTxAddr [1, 2, 3]) { fresh with faultCode := 4, faultOpc := 4 })).map
      (fun t => (t.alen, t.busLog, t.faultCode, t.faultOpc)) = some (none, [], 4, 4) := by decide

/-! ### Address and configure commands (L2.6) -/

/-- A2. -/
theorem test_A2 : (ran [0x01, 0x03, 0xA1, 0xB2, 0xC3]).map (fun t => (t.alen, t.txAddr, t.busLog)) =
    some (some 3, #v[some 0xA1, some 0xB2, some 0xC3, none, none],
      [⟨0x30, [0x0F, 0x71, 0x0C, 0x00, 0x00], 0, 0x0E, []⟩]) := by decide
/-- A4: LEN 6. -/
theorem test_A4 : (ran [0x01, 0x06, 1, 2, 3, 4, 5, 6]).map (fun t => (t.faultCode, t.faultOpc, t.busLog)) =
    some (3, 0x01, []) := by decide
/-- A6: the receive address leaves ALEN. -/
theorem test_A6 : (after (exec (.setRxAddr [9, 8, 7, 6, 5]) { fresh with alen := some 3 })).map
    (fun t => (t.alen, t.rxAlen, t.rxAddr.toList, t.busLog)) =
    some (some 3, some 5, [some 9, some 8, some 7, some 6, some 5],
      [⟨0x2A, [0x55, 0x0F, 0x71, 0x0C, 0x00], 0, 0x0E, []⟩]) := by decide
/-- A7: with ALEN_ON_RX_SET it sets ALEN. -/
theorem test_A7 : (after (exec (.setRxAddr [9, 8, 7, 6, 5])
    { fresh with config := { cand with alenOnRxSet := true, isLegal := by decide }, alen := some 3 })).map (·.alen) =
    some (some 5) := by decide
/-- A8. -/
theorem test_A8 : (ran [0x03, 0x0E]).map (fun t => (t.crcOn, t.cfgMirror, t.busLog)) =
    some (some true, some 0x02, [⟨0x20, [0x02], 0, 0x0E, []⟩]) := by decide
/-- A9: a strip bit that is not the enable bit. -/
theorem test_A9 : (ran [0x03, 0x04]).map (fun t => (t.crcOn, t.cfgMirror)) = some (some false, some 0x00) := by decide

/-! ### Frames (L2.4) -/

set_option maxRecDepth 20000 in
/-- F2. -/
theorem test_F2 : frame cand 4 [0x12, 0x34, 0x56, 0x78] [0x55, 0xAA, 0x0F] true =
    .ok [0x9B, 0xE7, 0x7F, 0xF8, 0x2F, 0xE9, 0x15, 0x95, 0xAA] := by decide
set_option maxRecDepth 20000 in
/-- F4: the byte before the address is outside the CRC. -/
theorem test_F4 : frame cand 3 [0xA1, 0xB2, 0xC3] [0x00] true =
    .ok [0x55, 0x20, 0x03, 0xEA, 0xEA, 0xBF, 0x2B] := by decide

/-! ### Payload commands (L2.7) -/

/-- `fresh` after the address and configure commands of a vector. -/
def ready (alen : Byte) (tx : Vector (Option Byte) 5) (crcOn : Bool) : State :=
  { fresh with alen := some alen, txAddr := tx, crcOn := some crcOn, cfgMirror := some 0 }

set_option maxRecDepth 20000 in
/-- P1's third command. -/
theorem test_P1_write :
    (after (exec (.writePayload [1, 2, 3, 4])
      (ready 5 #v[some 0x11, some 0x22, some 0x33, some 0x44, some 0x55] true))).map (·.busLog) =
    some [⟨0xA0, [0xB6, 0xF5, 0x78, 0xC8, 0x94, 0x3C, 0xA5, 0xA6, 0x2D, 0xA8, 0xB8], 0, 0x0E, []⟩] := by decide
set_option maxRecDepth 20000 in
/-- W7: 28 bytes with ALEN 4 and no CRC. -/
theorem test_W7 : (after (exec (.writePayload (List.replicate 28 0))
    (ready 4 #v[some 1, some 2, some 3, some 4, none] false))).map (fun t => (t.faultCode, t.faultOpc, t.busLog)) =
    some (5, 0x04, []) := by decide
set_option maxRecDepth 20000 in
/-- W8: an XOR-out index at the end of a table of 5. -/
theorem test_W8 : (after (exec (.writePayload [0, 0, 0, 0])
    { ready 4 #v[some 1, some 2, some 3, some 4, none] true with
      config := { cand with xorout := [0, 1, 2, 3, 4], isLegal := by decide } })).map (·.faultCode) = some 7 := by decide
set_option maxRecDepth 20000 in
/-- W3: UNWRITTEN goes before FRAME_LEN. -/
theorem test_W3 : (after (exec (.writePayload (List.replicate 200 0)) fresh)).map (·.faultCode) = some 4 := by decide
/-- R6. -/
theorem test_R6 : (after (exec (.readPayload 2) { fresh with alen := some 3, responses := [0x40, 0x15, 0x85] })).map
    (fun t => (t.rxMsg, t.status, t.busLog)) =
    some (some [0xFF, 0x00], some 0x40, [⟨0x61, [], 2, 0x40, [0x15, 0x85]⟩]) := by decide
/-- R1: the read would need scramble entry 35. -/
theorem test_R1 : (after (exec (.readPayload 31) { fresh with alen := some 5 })).map (·.faultCode) = some 6 := by decide

/-! ### Test access (L2.1, L2.2) -/

set_option maxRecDepth 20000 in
theorem test_crc_check : (after (exec (.crc16Raw [0x31, 0x32, 0x33, 0x34, 0x35, 0x36, 0x37, 0x38, 0x39]) fresh)).map (·.res) =
    some (some 0xB4FC) := by decide
theorem test_crc_empty : (ran [0x30, 0x00]).map (·.res) = some (some 0xB5D2) := by decide
theorem test_bitrev8 : (ran [0x31, 0xE3]).map (·.res) = some (some 0x00C7) := by decide

/-! ### Quantizers (L2.8) -/

def quantized (i : Instr) : Option Word := ((after (exec i fresh)).map (·.res)).join

theorem test_cx10_minus19 : quantized (.qCx10 (BitVec.ofInt 16 (-19))) = some 1500 := by decide
theorem test_cx10_min : quantized (.qCx10 0x8000) = some 1000 := by decide
theorem test_symax_minus78 : quantized (.qSymax (BitVec.ofInt 16 (-78))) = some 0x80 := by decide
theorem test_symax_79 : quantized (.qSymax 79) = some 0x01 := by decide
theorem test_yd717_minus39 : quantized (.qYd717 (BitVec.ofInt 16 (-39))) = some 0x80 := by decide
theorem test_yd717_5000 : quantized (.qYd717 5000) = some 0xBF := by decide
theorem test_flag_zero : quantized (.qFlag 0) = some 0 := by decide
theorem test_flag_max : quantized (.qFlag 0x7FFF) = some 1 := by decide
/-- The clamp goes first, whatever the fold (L2.8). -/
theorem test_symax_thr_clamp (s : State) :
    exec (.qSymaxThr 0x8000) s = exec (.qSymaxThr (BitVec.ofInt 16 (-10000))) s := by
  have h : axisOf 0x8000 = axisOf (BitVec.ofInt 16 (-10000)) := by decide
  simp only [exec, execQSymaxThr, h]
/-- The default selector of `cand` is 0 below 0 and 1 from there on. -/
theorem test_mode_step : quantized (.qMode (BitVec.ofInt 16 (-1))) = some 0 ∧ quantized (.qMode 0) = some 1 := by decide

/-! ### Checksums (L2.9) -/

/-- K1. -/
theorem test_K1 : quantized (.ckSymaxXor [1, 2, 4]) = some 0x5C := by decide
/-- K4: the sum wraps. -/
theorem test_K4 : quantized (.ckSymaxAdd [0xFF, 0x02]) = some 0x01 := by decide
/-- K7. -/
theorem test_K7 : quantized (.ckYd717 [0x80, 0x80, 0, 0, 0xFF, 0, 0, 0]) = some 0x00 := by decide
/-- K10: 7 bytes. -/
theorem test_K10 : (ran [0x22, 0x07, 1, 2, 3, 4, 5, 6, 7]).map (fun t => (t.faultCode, t.faultOpc, t.res)) =
    some (8, 0x22, none) := by decide

/-! ### The bus (L2.11, R172 to R178) -/

/-- R172's example: register 0x10 is opcode 0x30. -/
theorem test_bus_wreg : (after (exec (.busWreg 0x10 [0xAA]) fresh)).map (fun t => (t.status, t.busLog)) =
    some (some 0x0E, [⟨0x30, [0xAA], 0, 0x0E, []⟩]) := by decide
/-- BUS_RPAYLOAD leaves RXMSG. -/
theorem test_bus_rpayload : (after (exec (.busRpayload 2) fresh)).map (fun t => (t.rxMsg, t.busLog)) =
    some (none, [⟨0x61, [], 2, 0x0E, [0x0E, 0x0E]⟩]) := by decide
theorem test_bus_wpayload : (after (exec (.busWpayload [1, 2, 3, 4]) fresh)).map (·.busLog) =
    some [⟨0xA0, [1, 2, 3, 4], 0, 0x0E, []⟩] := by decide
/-- R178: "Effect on the block: none". -/
theorem test_bus_nop : (after (exec .busNop fresh)).map (·.busLog) = some [] := by decide
/-- R27: a configuration whose CRC_EN_BIT is outside CRC_STRIP_MASK is refused. -/
theorem test_config_refused : Config.accept { crcEnBit := 8, crcStripMask := 4 } = none := by decide
/-- R7: XOROUT may not be empty. -/
theorem test_config_xorout : Config.accept { xorout := [] } = none := by decide

/-! ### Witnesses: for every obligation with hypotheses, data that meets them all (the boundary values of each clause) -/

theorem witness_DecodeEncode : (Instr.busWreg 31 [0]).WellFormed ∧ (Instr.busRreg 0 31).WellFormed ∧
    (Instr.busWpayload (List.replicate 31 0)).WellFormed ∧ (Instr.setTxAddr []).WellFormed := by decide
theorem witness_DecodeOnlyEncodings : decode (.command [0x04, 0x00]) = .ok (.writePayload []) ∧
    decode (.bus 0x3F [0] 0) = .ok (.busWreg 31 [0]) := by decide

/-- `fresh` with one command string issued. -/
def issued (bytes : List Byte) : State := { fresh with port := [.wire (.command bytes)] }

theorem witness_IllegalOpcode : ∀ op ∈ [0x00#8, 0x06#8, 0x0F#8, 0x16#8, 0x1F#8, 0x23#8, 0x2F#8, 0x32#8, 0xFF#8],
    (issued [op]).faultCode = 0#8 ∧ (issued [op]).port = .wire (.command [op]) :: [] ∧
      decode (.command [op]) = .error .illegalOpcode := by decide
theorem witness_CommandLength : ∀ bytes ∈ [[], [0x01#8], [0x31#8, 0xE3#8, 0x00#8], [0x10#8, 0x00#8], [0x01#8, 0x03#8, 1, 2]],
    (issued bytes).faultCode = 0#8 ∧ (issued bytes).port = .wire (.command bytes) :: [] ∧
      decode (.command bytes) = .error .cmdLength := by decide
theorem witness_StepRunsDecoded : (issued [0x31, 0xE3]).port = .wire (.command [0x31, 0xE3]) :: [] ∧
    decode (.command [0x31, 0xE3]) = .ok (.bitrev8 0xE3) := by decide
theorem witness_IdleWaits : State.reset.port = [] := rfl
theorem witness_AssembleDecodes : assemble ⟨.bitrev8, [.hex 0xE3]⟩ = some [0x31, 0xE3] ∧
    assemble ⟨.qYd717, [.dec (-32768)]⟩ = some [0x13, 0x00, 0x80] ∧
    assemble ⟨.setTxAddr, [.dec 255, .hex 0xB2]⟩ = some [0x01, 0x02, 0xFF, 0xB2] ∧
    assemble ⟨.readPayload, [.dec 31]⟩ = some [0x05, 0x1F] ∧ assemble ⟨.qFlag, [.hex 0xFFFF]⟩ = some [0x14, 0xFF, 0xFF] ∧
    Cmd.format .configure = .c ∧ Cmd.format .readPayload = .r ∧ Cmd.format .qFlag = .q ∧
    Cmd.format .setTxAddr = .a ∧ Cmd.format .writePayload = .p ∧ Cmd.format .crc16Raw = .k := by decide
theorem witness_ResetInput : ({ fresh with faultCode := 4, port := [.reset] } : State).port = .reset :: [] := rfl

set_option maxRecDepth 20000 in
/-- F7 (alen 5); F2 and F4 above are the witnesses at alen 4 and 3. -/
theorem witness_FrameLayout : frame cand 5 [0x11, 0x22, 0x33, 0x44, 0x55] [1, 2, 3, 4] true =
    .ok [0xB6, 0xF5, 0x78, 0xC8, 0x94, 0x3C, 0xA5, 0xA6, 0x2D, 0xA8, 0xB8] := by decide
theorem witness_RoundTrip : ([0x11, 0x22, 0x33, 0x44, 0x55] : List Byte).length = 5 ∧
    5 + (List.replicate 30 0#8).length ≤ 35 ∧ 5 - 3 + (List.replicate 25 0#8).length < cand.xorout.length := by decide
/-- The last clause (F1): a frame of three bytes at ALEN 4 without CRC, and an exchange that clocks in its payload field. -/
theorem witness_RoundTripRead : (frame cand 4 [0x12, 0x34, 0x56, 0x78] [0x55, 0xAA, 0x0F] false).toOption =
      some [0x9B, 0xE7, 0x7F, 0xF8, 0x2F, 0xE9, 0x15] ∧
    (after (exec (.readPayload 3) { fresh with alen := some 4, responses := [0x0E, 0x2F, 0xE9, 0x15] })).map
      (fun t => (t.busLog.map Exchange.inp, t.rxMsg)) =
    some ([([0x9B, 0xE7, 0x7F, 0xF8, 0x2F, 0xE9, 0x15].drop 4).take 3], some [0x55, 0xAA, 0x0F]) := by decide
/-- The last clause: -32768 and its clamped value, 10000 and itself. -/
theorem witness_AxisClamp :
    (BitVec.ofInt 16 (-10000)).toInt = min (max (BitVec.toInt (0x8000#16)) (-10000)) 10000 ∧
    (BitVec.ofInt 16 10000).toInt = min (max (BitVec.ofInt 16 10000).toInt (-10000)) 10000 ∧
    (BitVec.ofInt 16 (-10001)).toInt ≤ -10001 ∧ 10001 ≤ (BitVec.ofInt 16 10001).toInt := by decide
theorem witness_LargestPayload : frameLength 5 26 false = 31 ∧ frameLength 3 25 true = 31 ∧ frameLength 4 25 true = 31 := by
  decide

/-- The block is not halted: the hypothesis of every completion statement, with each clause's operands beside it. -/
theorem witness_running : fresh.faultCode = 0#8 := rfl
theorem witness_SetTxAddr : fresh.faultCode = 0#8 ∧ (3 ≤ ([1, 2, 3] : List Byte).length ∧ ([1, 2, 3] : List Byte).length ≤ 5) ∧
    (3 ≤ ([1, 2, 3, 4, 5] : List Byte).length ∧ ([1, 2, 3, 4, 5] : List Byte).length ≤ 5) ∧
    ¬(3 ≤ ([1, 2] : List Byte).length ∧ ([1, 2] : List Byte).length ≤ 5) ∧
    ¬(3 ≤ ([1, 2, 3, 4, 5, 6] : List Byte).length ∧ ([1, 2, 3, 4, 5, 6] : List Byte).length ≤ 5) := by decide
/-- Not halted; every bit given, under masks 0x08 and 0x0C: both strip bits are gone, the six others stay (R112). -/
theorem witness_CrcMasks : fresh.faultCode = 0#8 ∧
    (after (exec (.configure 0xFF) fresh)).map (fun t => (t.crcOn, t.cfgMirror, t.busLog.map Exchange.out)) =
      some (some true, some 0xF3, [[0xF3]]) := by decide
theorem witness_CkYd717 : ([1, 2, 3, 4, 5, 6, 7, 8] : List Byte).length = 8 ∧ ([1, 2, 3, 4, 5, 6, 7] : List Byte).length ≠ 8 := by
  decide

/-- The largest payload with ALEN 5 and the CRC: 24 bytes, XOR-out index 26. -/
theorem witness_WritePayloadSends :
    (ready 5 #v[some 0x11, some 0x22, some 0x33, some 0x44, some 0x55] true).WriteReady 24 5 [0x11, 0x22, 0x33, 0x44, 0x55] true where
  alen_eq := ⟨5, rfl, rfl⟩
  tx_length := rfl
  tx_eq := by
    intro i hi
    have h : ∀ i : Fin 5, ∃ b, ([0x11, 0x22, 0x33, 0x44, 0x55] : List Byte)[i.val]? = some b ∧
        (#v[some 0x11, some 0x22, some 0x33, some 0x44, some 0x55] : Vector (Option Byte) 5)[i.val]? = some (some b) := by
      decide
    exact h ⟨i, hi⟩
  crc_eq := rfl
  fits := by decide
  scramble_in := by decide
  xorout_in := by decide

/-- Each clause: no ALEN; a byte unwritten below ALEN; no CRC_ON; 32 bytes; an index at the table's length. -/
theorem witness_WritePayloadFaults : fresh.alen = none ∧ fresh.crcOn = none ∧
    (∀ b, (ready 4 #v[some 1, some 2, some 3, none, none] true).txAddr[3]? ≠ some (some b)) ∧
    (∀ i : Fin 4, ((ready 4 #v[some 1, some 2, some 3, some 4, none] true).txAddr[i.val]?).join.isSome = true) ∧
    31 < (if 4 < 4 then 1 else 0) + 4 + (List.replicate 26 0#8).length + (if true then 2 else 0) ∧
    (if 4 < 4 then 1 else 0) + 4 + (List.replicate 25 0#8).length + (if true then 2 else 0) ≤ 31 ∧
    ([0, 1, 2, 3, 4] : List Word).length ≤ 4 - 3 + (List.replicate 4 0#8).length := by
  refine ⟨rfl, rfl, fun b h => ?_, by decide, by decide, by decide, by decide⟩
  simp [ready] at h

/-- R2: 30 bytes at ALEN 5; 31 bytes fault; no ALEN; 32 bytes. -/
theorem witness_ReadPayload : ({ fresh with alen := some 5 } : State).alen = some 5 ∧
    (0 < (30#8).toNat → (5#8).toNat + (30#8).toNat - 1 ≤ 34) ∧ (30#8).toNat ≤ 31 ∧
    (31#8).toNat ≤ 31 ∧ 34 < (5#8).toNat + (31#8).toNat - 1 ∧ fresh.alen = none ∧ 31 < (32#8).toNat := by decide

/-- A command that takes no fault, one that does, and one refused. -/
theorem witness_CommandExchanges : encode (.bitrev8 0xE3) = .command [0x31, 0xE3] ∧
    ((after (exec (.bitrev8 0xE3) fresh)).map (·.faultCode)) = some 0 := by decide
theorem witness_FaultEntry : ((after (exec (.writePayload []) fresh)).map (·.faultCode)) = some 4 := by decide

/-- A halted block with a command and with the reset input before it. -/
def haltedBy (i : Input) : State := { fresh with faultCode := 4, faultOpc := 4, port := [i] }

theorem witness_HaltRefuses : (haltedBy .reset).faultCode ≠ 0#8 ∧ (haltedBy .reset).port = .reset :: [] ∧
    encode .busNop ≠ .command [] ∧ encode (.configure 0) = .command [0x03, 0x00] ∧
    (haltedBy (.wire (.command [0x40]))).port = .wire (.command [0x40]) :: [] := by decide
/-- The second clause: a malformed bus exchange and an unknown bus opcode, taken by a halted block. -/
theorem witness_HaltLasts_taken : ∀ w ∈ [Wire.bus 0x50 [0x00] 0, .bus 0x80 [] 0, .command []],
    (haltedBy (.wire w)).faultCode ≠ 0#8 ∧ (haltedBy (.wire w)).port = .wire w :: [] ∧
      (after (step (haltedBy (.wire w)))).map (fun t => (t.port, t.faultCode, t.busLog)) = some ([], 4, []) := by decide
theorem witness_HaltLasts : (haltedBy (.wire (.command [0x40]))).faultCode ≠ 0#8 ∧
    (∀ p, (haltedBy (.wire (.command [0x40]))).port ≠ .reset :: p) ∧
    (after (step (haltedBy (.wire (.command [0x40]))))).isSome = true := by
  refine ⟨by decide, fun p h => ?_, by decide⟩
  simp [haltedBy] at h

/-- Every register of the column "written by" is changed by the instruction named there. -/
theorem witness_RegisterWriters :
    ((after (exec (.setTxAddr [1, 2, 3]) fresh)).map fun t => (t.alen != fresh.alen, t.txAddr != fresh.txAddr)) = some (true, true) ∧
    ((after (exec (.setRxAddr [1, 2, 3]) fresh)).map fun t => (t.rxAlen != fresh.rxAlen, t.rxAddr != fresh.rxAddr)) = some (true, true) ∧
    ((after (exec (.configure 8) fresh)).map fun t => (t.crcOn != fresh.crcOn, t.cfgMirror != fresh.cfgMirror)) = some (true, true) ∧
    ((after (exec (.readPayload 0) { fresh with alen := some 3 })).map fun t => (t.rxMsg != fresh.rxMsg, t.status != fresh.status)) =
      some (true, true) ∧
    ((after (exec (.qFlag 1) fresh)).map fun t => t.res != fresh.res) = some true ∧
    ((after (exec (.ckYd717 []) fresh)).map fun t => (t.faultCode != fresh.faultCode, t.faultOpc != fresh.faultOpc)) =
      some (true, true) ∧
    encode (.busWreg 5 [0]) = .bus 0x25 [0] 0 ∧
    ((after (exec (.busWreg 5 [0]) fresh)).map fun t => t.status != fresh.status) = some true := by decide

/-- A step that answers a next state, with no reset input before it. -/
theorem witness_BusLogAppends : (after (step (issued [0x03, 0x0E]))).isSome = true ∧
    ∀ p, (issued [0x03, 0x0E]).port ≠ .reset :: p := by
  refine ⟨by decide, fun p h => ?_⟩
  simp [issued] at h
theorem witness_TablesConstant : (after (step (issued [0x03, 0x0E]))).isSome = true := by decide
/-- Three draws: a status byte and two bytes clocked in. -/
theorem witness_DrawsObserved : ∀ s : State, s = { issued [0x05, 0x02] with alen := some 3 } →
    (∀ p, s.port ≠ .reset :: p) ∧ (after (step s)).map (fun t => t.observe.2) = some [0x0E, 0x0E, 0x0E] := by
  rintro s rfl
  refine ⟨fun p h => ?_, by decide⟩
  simp [issued] at h
theorem witness_LaterInputsWait : (issued [0x03, 0x0E]).port ≠ [] ∧ (after (step (issued [0x03, 0x0E]))).isSome = true := by
  decide
theorem witness_Yd717FrameSum : fresh.faultCode = 0#8 ∧ ([1, 2, 3, 4, 5, 6, 7, 8] : List Byte).length = 8 := by decide
theorem witness_SetRxAddr : fresh.faultCode = 0#8 ∧ (3 ≤ ([1, 2, 3] : List Byte).length ∧ ([1, 2, 3] : List Byte).length ≤ 5) ∧
    ¬(3 ≤ ([1, 2] : List Byte).length ∧ ([1, 2] : List Byte).length ≤ 5) := by decide
theorem witness_HostReads : (ready 4 #v[some 1, some 2, some 3, some 4, none] true).alen = some 4 ∧
    ({ fresh with res := some 1, rxMsg := some [] } : State).res = some 1 ∧
    ({ fresh with res := some 1, rxMsg := some [] } : State).rxMsg = some [] := by decide

/-- A state that meets the invariant and steps: a 4-byte address set, one exchange logged, a command issued. -/
theorem witness_InvStep : ∃ s : State, s.Inv ∧ (after (step s)).isSome = true ∧ s.alen = some 4 := by
  refine ⟨{ fresh with
    alen := some 4, txAddr := #v[some 1, some 2, some 3, some 4, none], status := some 0x0E
    busLog := [⟨0x30, [0x55, 0x0F, 0x71, 0x0C, 0x00], 0, 0x0E, []⟩]
    port := [.wire (.command [0x31, 0xE3])] }, ?_, by decide, rfl⟩
  refine ⟨?_, ?_, ⟨4, ?_, by decide⟩, ?_, rfl, ?_, ?_, rfl, ?_, by decide, fun _ => rfl⟩
  · intro b h; cases h; decide
  · intro b h; cases h
  · unfold addrWritten; decide
  · intro _ b h; cases h; unfold addrWritten; decide
  · intro b h; cases h
  · intro b h; cases h
  · intro e h
    rw [List.mem_singleton] at h
    subst h
    exact ⟨rfl, .inl (by decide)⟩

theorem witness_BootThenWrite : ∃ (s : State) (a m : List Byte) (b : Byte), s.faultCode = 0#8 ∧ 3 ≤ a.length ∧ a.length ≤ 5 ∧
    27 ≤ s.config.xorout.length ∧ frameLength a.length m.length (decide (b &&& s.config.crcEnBit ≠ 0#8)) ≤ 31 ∧
    s.port = [.wire (encode (.configure b)), .wire (encode (.setTxAddr a))] ++ [.wire (encode (.writePayload m))] :=
  ⟨{ fresh with port := [.wire (encode (.configure 8)), .wire (encode (.setTxAddr [1, 2, 3, 4, 5]))] ++
      [.wire (encode (.writePayload (List.replicate 24 0)))] }, [1, 2, 3, 4, 5], List.replicate 24 0, 8,
    rfl, by decide, by decide, by decide, by decide, rfl⟩

end Sys2Proof.Tests
end

section
/-! PROOFS. The statements of 00_scope.md: the bytes a parameter function takes on the clamped axis (R7), and the step as the
meaning of the decoded instruction (R5, R25). -/

namespace Sys2Proof

open Sys2Proof.Machine

/-! ### The bytes a parameter function takes -/

/-- Legality (R7), as facts about the list of thresholds. -/
theorem StepFn.legal_iff (f : StepFn) :
    f.legal = true ↔ f.steps.Pairwise (fun p q => p.1 < q.1) ∧ ∀ p ∈ f.steps, -10000 < p.1 ∧ p.1 ≤ 10000 := by
  simp [StepFn.legal, List.pairwise_map]

theorem StepFn.mem_values (f : StepFn) (b : Byte) : b ∈ f.values ↔ b = f.base ∨ ∃ p ∈ f.steps, p.2 = b := by
  simp [StepFn.values]

/-- The first threshold only chooses the byte the later ones start from. -/
theorem stepFnAt_cons (base : Byte) (p : Int × Byte) (ps : List (Int × Byte)) (c : Int) :
    stepFnAt ⟨base, p :: ps⟩ c = stepFnAt ⟨if p.1 ≤ c then p.2 else base, ps⟩ c := rfl

theorem stepFnAt_mem_values (f : StepFn) (c : Int) : stepFnAt f c ∈ f.values := by
  rw [StepFn.mem_values]
  obtain ⟨base, steps⟩ := f
  induction steps generalizing base with
  | nil => exact .inl rfl
  | cons p ps ih =>
    rw [stepFnAt_cons]
    obtain hbase | ⟨q, hq, hqb⟩ := ih (if p.1 ≤ c then p.2 else base)
    · by_cases hp : p.1 ≤ c
      · exact .inr ⟨p, List.mem_cons_self, by simpa [hp] using hbase.symm⟩
      · exact .inl (by simpa [hp] using hbase)
    · exact .inr ⟨q, List.mem_cons_of_mem p hq, hqb⟩

theorem stepFnAt_below (base : Byte) (steps : List (Int × Byte)) (c : Int) (h : ∀ p ∈ steps, c < p.1) :
    stepFnAt ⟨base, steps⟩ c = base := by
  induction steps with
  | nil => rfl
  | cons p ps ih =>
    obtain ⟨hp, hps⟩ := List.forall_mem_cons.1 h
    rw [stepFnAt_cons, if_neg (not_le.2 hp), ih hps]

/-- Where thresholds rise strictly, each gives its own byte: those after it are not reached yet. -/
theorem stepFnAt_threshold (base : Byte) {steps : List (Int × Byte)} (h : steps.Pairwise fun p q => p.1 < q.1)
    {p : Int × Byte} (hp : p ∈ steps) : stepFnAt ⟨base, steps⟩ p.1 = p.2 := by
  induction h generalizing base with
  | nil => cases hp
  | @cons q qs hq _ ih =>
    rw [stepFnAt_cons]
    obtain rfl | hp := List.mem_cons.1 hp
    · rw [if_pos le_rfl, stepFnAt_below _ _ _ hq]
    · exact ih _ hp

/-- The bytes listed in a legal parameter function are exactly those it takes on the axis. -/
theorem StepFn.mem_values_iff_taken {f : StepFn} (h : f.legal = true) (b : Byte) :
    b ∈ f.values ↔ ∃ c : Int, -10000 ≤ c ∧ c ≤ 10000 ∧ stepFnAt f c = b := by
  obtain ⟨rising, range⟩ := f.legal_iff.1 h
  constructor
  · intro hb
    obtain rfl | ⟨p, hp, rfl⟩ := (f.mem_values b).1 hb
    · exact ⟨-10000, le_rfl, by decide, stepFnAt_below _ _ _ fun p hp => (range p hp).1⟩
    · exact ⟨p.1, (range p hp).1.le, (range p hp).2, stepFnAt_threshold _ rising hp⟩
  · rintro ⟨c, -, -, rfl⟩
    exact stepFnAt_mem_values f c

/-- Settles O35: the list is that of the bytes written in the mode selection, each once. -/
theorem modeValues : Obligations.ModeValues := by
  intro cfg
  obtain ⟨-, -, -, -, legal, two_le, le_three⟩ := cfg.legal_parts
  exact ⟨cfg.modeSelect.values, List.nodup_dedup _, two_le, le_three, StepFn.mem_values_iff_taken legal⟩

/-! ### A step on an input that decodes -/

/-- In a block that is not halted, the fetch of a spelling that decodes is the instruction (R203). -/
theorem fetchWire_decoded {s : State} {w : Wire} {i : Instr} (hs : s.faultCode = 0#8) (hd : decode w = .ok i) :
    fetchWire w s = .run i s := by
  have running : s.halted = false := (State.not_halted_iff s).2 hs
  cases w with
  | command bytes =>
    have hd : decodeCommand bytes = .ok i := hd
    simp [fetchWire, running, hd]
  | bus op out nin =>
    have hd : decodeBus op out nin = .ok i := hd
    simp [fetchWire, running, hd]

/-- A step of a block that is not halted runs the instruction its next input decodes to (R5, R25). -/
theorem step_decoded {s : State} {w : Wire} {p : List Input} {i : Instr} (hs : s.faultCode = 0#8)
    (hp : s.port = .wire w :: p) (hd : decode w = .ok i) : step s = exec i { s with port := p } := by
  have hfetch : fetch s = .run i { s with port := p } := by
    simp only [fetch, hp]
    exact fetchWire_decoded hs hd
  simp only [step, hfetch]

/-- Settles O5: a halted block refuses on both sides (R202); one that is not halted runs what it decodes. -/
theorem stepRunsDecoded : Obligations.StepRunsDecoded := by
  intro s w p i hp hd
  by_cases hs : s.faultCode = 0#8
  · exact step_decoded hs hp hd
  · rw [step_halted hs hp, exec_halted i (s := { s with port := p }) hs]

end Sys2Proof
end

section
/-! PROOFS. The statements of 10_state.md: what holds after reset (R36), what a host reads (R21, R35), which instruction writes
which register (R20), what no instruction reads (R24, R25), and the invariant of the registers (R23 to R34). -/

namespace Sys2Proof.Machine

/-! ### Reset and host reads -/

/-- Settles O9: each register is read off the reset state, an address byte by byte. -/
theorem resetValues : Obligations.ResetValues := by
  refine ⟨rfl, rfl, rfl, rfl, fun i => ?_, fun i => ?_, rfl, rfl, rfl, rfl, rfl, rfl, rfl⟩
  · exact Vector.getElem_replicate i.isLt
  · exact Vector.getElem_replicate i.isLt

/-- The read of a register with a valid bit: its value when the bit is set, no value when it is clear (R21). -/
theorem validBit_read_iff {α : Type} (mk : α → HostValue) (reg : Option α) (v : HostValue) :
    reg.map mk = some v ↔ ∃ b, reg = some b ∧ v = mk b := by
  simp only [Option.map_eq_some_iff, eq_comm]

/-- Settles O54: the registers with a valid bit read alike; the fault registers and BUSLOG always hold a value. -/
theorem hostReads : Obligations.HostReads := by
  intro s v
  have always (w : HostValue) : some w = some v ↔ v = w := by rw [Option.some.injEq, eq_comm]
  exact ⟨validBit_read_iff _ _ v, fun _ => validBit_read_iff _ _ v, fun _ => validBit_read_iff _ _ v,
    validBit_read_iff _ _ v, validBit_read_iff _ _ v, validBit_read_iff _ _ v, validBit_read_iff _ _ v,
    validBit_read_iff _ _ v, validBit_read_iff _ _ v, always _, always _, always _⟩

/-! ### What CONFIGURE sends -/

/-- A byte passed on has the strip bits clear and the others as given (R112). -/
theorem delegatedConfig_getLsbD (cfg : Config) (b : Byte) {i : Nat} (hi : i < 8) :
    (delegatedConfig cfg b).getLsbD i = if cfg.crcStripMask.getLsbD i then false else b.getLsbD i := by
  rw [delegatedConfig, BitVec.getLsbD_and, BitVec.getLsbD_not, decide_eq_true hi]
  cases cfg.crcStripMask.getLsbD i <;> simp

theorem delegatedConfig_and_stripMask (cfg : Config) (b : Byte) : delegatedConfig cfg b &&& cfg.crcStripMask = 0#8 := by
  ext i hi
  simp [delegatedConfig]

/-- The enable bit is one of those stripped (R27), so it is not sent. -/
theorem delegatedConfig_and_enBit (cfg : Config) (b : Byte) : delegatedConfig cfg b &&& cfg.crcEnBit = 0#8 := by
  obtain ⟨-, -, within, -⟩ := cfg.legal_parts
  rw [← within, BitVec.and_comm cfg.crcEnBit, ← BitVec.and_assoc, delegatedConfig_and_stripMask, BitVec.zero_and]

theorem crcEnabled_iff (cfg : Config) (b : Byte) : crcEnabled cfg b = true ↔ b &&& cfg.crcEnBit ≠ 0#8 := by
  simp [crcEnabled]

/-- Settles O21: the masks are legal by the type of a configuration; the byte sent is the one kept. -/
theorem crcMasks : Obligations.CrcMasks := by
  constructor
  · intro cfg
    obtain ⟨-, oneBit, within, -⟩ := cfg.legal_parts
    exact ⟨oneBit, within⟩
  · intro s b hs
    exact ⟨configure b s, ⟨_, _, _, _, _⟩, delegatedConfig s.config b, State.issue_running hs, rfl, rfl, rfl, rfl, rfl,
      fun _ => delegatedConfig_getLsbD s.config b, delegatedConfig_and_enBit s.config b, _, rfl,
      crcEnabled_iff s.config b⟩

/-! ### Which instruction writes which register (R20) -/

section Writers

variable {i : Instr} {s t : State}

theorem Effect.config_eq (e : Effect i s t) : t.config = s.config := by cases e <;> rfl

theorem Effect.alen_writer (e : Effect i s t) (h : t.alen ≠ s.alen) :
    (∃ a, i = .setTxAddr a) ∨ (s.config.alenOnRxSet = true ∧ ∃ a, i = .setRxAddr a) := by
  cases e
  case txAddr a hi _ => exact .inl ⟨a, hi⟩
  case rxAddr a hi _ =>
    refine .inr ⟨?_, a, hi⟩
    by_contra off
    exact h (if_neg off)
  all_goals exact absurd rfl h

theorem Effect.txAddr_writer (e : Effect i s t) (h : t.txAddr ≠ s.txAddr) : ∃ a, i = .setTxAddr a := by
  cases e
  case txAddr a hi _ => exact ⟨a, hi⟩
  all_goals exact absurd rfl h

theorem Effect.rxAddr_writer (e : Effect i s t) (h : t.rxAddr ≠ s.rxAddr ∨ t.rxAlen ≠ s.rxAlen) :
    ∃ a, i = .setRxAddr a := by
  cases e
  case rxAddr a hi _ => exact ⟨a, hi⟩
  all_goals exact h.elim (absurd rfl) (absurd rfl)

theorem Effect.crc_writer (e : Effect i s t) (h : t.crcOn ≠ s.crcOn ∨ t.cfgMirror ≠ s.cfgMirror) :
    ∃ b, i = .configure b := by
  cases e
  case config b hi => exact ⟨b, hi⟩
  all_goals exact h.elim (absurd rfl) (absurd rfl)

theorem Effect.rxMsg_writer (e : Effect i s t) (h : t.rxMsg ≠ s.rxMsg) : ∃ len, i = .readPayload len := by
  cases e
  case read len _ hi _ => exact ⟨len, hi⟩
  all_goals exact absurd rfl h

theorem Effect.res_writer (e : Effect i s t) (h : t.res ≠ s.res) :
    ∃ bytes, encode i = .command bytes ∧ ∃ op, bytes.head? = some op ∧ 0x10 ≤ op.toNat := by
  cases e
  case result _ op rest hi ho => exact ⟨op :: rest, hi, op, rfl, ho⟩
  all_goals exact absurd rfl h

/-- An effect appends at most one record, and writes STATUS only with it (R32, R34). -/
theorem Effect.busLog_eq (e : Effect i s t) :
    (t.busLog = s.busLog ∧ t.status = s.status) ∨ ∃ x, t.busLog = s.busLog ++ [x] := by
  cases e
  case none | fault | result => exact .inl ⟨rfl, rfl⟩
  all_goals exact .inr ⟨_, rfl⟩

theorem Effect.status_writer (e : Effect i s t) (h : t.status ≠ s.status) : t.busLog ≠ s.busLog := by
  obtain ⟨-, same⟩ | ⟨x, hx⟩ := e.busLog_eq
  · exact absurd same h
  · simp [hx]

theorem Effect.busLog_writer (e : Effect i s t) (h : t.busLog ≠ s.busLog) :
    (∃ a, i = .setTxAddr a) ∨ (∃ a, i = .setRxAddr a) ∨ (∃ b, i = .configure b) ∨ (∃ m, i = .writePayload m) ∨
      (∃ len, i = .readPayload len) ∨ (∃ r out, i = .busWreg r out) ∨ (∃ out, i = .busWpayload out) ∨
      ∃ nin, i = .busRpayload nin := by
  cases e
  case none | fault | result => exact absurd rfl h
  all_goals subst i; simp

theorem Effect.fault_writer (e : Effect i s t) (h : t.faultCode ≠ s.faultCode ∨ t.faultOpc ≠ s.faultOpc) :
    (∃ bytes, encode i = .command bytes) ∧
      ((∃ a, i = .setTxAddr a) ∨ (∃ a, i = .setRxAddr a) ∨ (∃ m, i = .writePayload m) ∨ (∃ len, i = .readPayload len) ∨
        ∃ d, i = .ckYd717 d) := by
  cases e
  case fault _ op rest hi hc => exact ⟨⟨op :: rest, hi⟩, hc⟩
  all_goals exact h.elim (absurd rfl) (absurd rfl)

/-- An instruction spelled as an exchange changes STATUS, BUSLOG and the draws alone (log entry 5). -/
theorem Effect.bus_frame (e : Effect i s t) {op : Byte} {out : List Byte} {nin : Nat} (h : encode i = .bus op out nin) :
    t = { s with status := t.status, busLog := t.busLog, responses := t.responses, drawCount := t.drawCount } := by
  cases e
  case fault _ _ _ hi _ => exact absurd (hi.symm.trans h) nofun
  case result _ _ _ hi _ => exact absurd (hi.symm.trans h) nofun
  case txAddr | rxAddr | config | read => subst i; cases h
  all_goals rfl

end Writers

/-- Settles O50: a halted block changes nothing (R202); in any other each register has its writers. -/
theorem registerWriters : Obligations.RegisterWriters := by
  intro i s t h
  by_cases hs : s.faultCode = 0#8
  · have e := exec_effect hs h
    exact ⟨e.alen_writer, e.txAddr_writer, e.rxAddr_writer, e.crc_writer, e.rxMsg_writer, e.res_writer, e.status_writer,
      e.busLog_writer, fun hf => ⟨hs, e.fault_writer hf⟩, fun _ _ _ => e.bus_frame⟩
  · obtain rfl : s = t := by simpa [exec_halted i hs] using h
    simp

/-- Settles O51: reset, a fault and every effect keep the tables. -/
theorem tablesConstant : Obligations.TablesConstant := by
  intro s t h
  obtain ⟨-, rfl⟩ | ⟨p, -, rfl⟩ | ⟨w, p, i, -, -, hs, hx⟩ | ⟨w, p, -, -, rfl⟩ | ⟨bytes, p, f, -, -, rfl⟩ := step_cases h
  · rfl
  · rfl
  · exact (exec_effect (s := { s with port := p }) hs hx).config_eq
  · rfl
  · rfl

/-- Settles O52: only an instruction that runs appends, and it appends at most one record. -/
theorem busLogAppends : Obligations.BusLogAppends := by
  intro s t h noReset
  obtain ⟨-, rfl⟩ | ⟨p, hp, -⟩ | ⟨w, p, i, -, -, hs, hx⟩ | ⟨w, p, -, -, rfl⟩ | ⟨bytes, p, f, -, -, rfl⟩ := step_cases h
  · exact ⟨[], by simp⟩
  · exact absurd hp (noReset p)
  · obtain ⟨same, -⟩ | ⟨x, hx⟩ := (exec_effect (s := { s with port := p }) hs hx).busLog_eq
    · exact ⟨[], by simp [same]⟩
    · exact ⟨[x], hx, le_rfl⟩
  · exact ⟨[], by simp⟩
  · exact ⟨[], by simp⟩

/-! ### What no instruction reads: the receive address and the rest of the port (R24, R25) -/

/-- The state with the port and the receive address put through functions. -/
def State.mapUnread (s : State) (f : List Input → List Input) (g : Vector (Option Byte) 5 → Vector (Option Byte) 5)
    (h : Option Byte → Option Byte) : State :=
  { s with port := f s.port, rxAddr := g s.rxAddr, rxAlen := h s.rxAlen }

section Unread

variable {s e e' t : State} {f : List Input → List Input} {g : Vector (Option Byte) 5 → Vector (Option Byte) 5}
  {h : Option Byte → Option Byte}

/-- Whether a command is refused does not depend on them. -/
theorem State.issue_mapUnread (he : e' = e.mapUnread f g h) (ht : s.issue e = .next t) :
    (s.mapUnread f g h).issue e' = .next (t.mapUnread f g h) := by
  have same : (s.mapUnread f g h).halted = s.halted := rfl
  obtain ⟨hs, rfl⟩ | ⟨hs, rfl⟩ := State.issue_next ht
  · simp [State.issue, same, hs]
  · simp [State.issue, same, hs, he]

theorem setTxAddr_mapUnread (a : List Byte) (s : State) :
    setTxAddr a (s.mapUnread f g h) = (setTxAddr a s).mapUnread f g h := by
  unfold setTxAddr
  cases addrLenOk a <;> rfl

/-- SET_RX_ADDR, which writes the receive address, where the functions keep what it writes. -/
theorem setRxAddr_mapUnread {a : List Byte} (s : State) (hg : g (addrRegs a) = addrRegs a)
    (hh : h (some (addrLenByte a)) = some (addrLenByte a)) :
    setRxAddr a (s.mapUnread f g h) = (setRxAddr a s).mapUnread f g h := by
  unfold setRxAddr
  cases addrLenOk a
  · rfl
  · simp only [State.mapUnread, State.exchange, if_true, hg, hh]
    rfl

theorem writePayload_mapUnread (m : List Byte) (s : State) :
    writePayload m (s.mapUnread f g h) = (writePayload m s).mapUnread f g h := by
  have same : writeFrame m (s.mapUnread f g h) = writeFrame m s := rfl
  unfold writePayload
  rw [same]
  cases writeFrame m s <;> rfl

theorem readPayload_mapUnread (len : Byte) (s : State) :
    readPayload len (s.mapUnread f g h) = (readPayload len s).mapUnread f g h := by
  have same : readMessage len (s.mapUnread f g h) = readMessage len s := rfl
  unfold readPayload
  rw [same]
  cases readMessage len s <;> rfl

/-- Running an instruction commutes with such functions, where they keep what it writes. -/
theorem exec_mapUnread {i : Instr} (ht : exec i s = .next t)
    (keep : ∀ a, i = .setRxAddr a → g (addrRegs a) = addrRegs a ∧ h (some (addrLenByte a)) = some (addrLenByte a)) :
    exec i (s.mapUnread f g h) = .next (t.mapUnread f g h) := by
  cases i
  case setTxAddr a => exact State.issue_mapUnread (setTxAddr_mapUnread a s) ht
  case setRxAddr a =>
    obtain ⟨hg, hh⟩ := keep a rfl
    exact State.issue_mapUnread (setRxAddr_mapUnread s hg hh) ht
  case writePayload m => exact State.issue_mapUnread (writePayload_mapUnread m s) ht
  case readPayload len => exact State.issue_mapUnread (readPayload_mapUnread len s) ht
  case ckYd717 d => exact State.issue_mapUnread (by split <;> rfl) ht
  all_goals exact State.issue_mapUnread rfl ht

theorem exec_issueAll {i : Instr} (ht : exec i s = .next t) (l : List Input) :
    exec i (s.issueAll l) = .next (t.issueAll l) :=
  exec_mapUnread (f := (· ++ l)) (g := id) (h := id) ht fun _ _ => ⟨rfl, rfl⟩

end Unread

/-- SET_RX_ADDR writes the receive address whole or not at all, and reads nothing of it. -/
theorem setRxAddr_rxAddr_unread (a : List Byte) (s : State) (ra : Vector (Option Byte) 5) (rl : Option Byte) :
    setRxAddr a s = { setRxAddr a { s with rxAddr := ra, rxAlen := rl } with
      rxAddr := (setRxAddr a s).rxAddr, rxAlen := (setRxAddr a s).rxAlen } := by
  unfold setRxAddr
  cases addrLenOk a <;> rfl

/-- Settles O53: every other instruction carries the receive address along. -/
theorem rxAddrUnread : Obligations.RxAddrUnread := by
  intro i s ra rl
  by_cases hi : ∃ a, i = .setRxAddr a
  · obtain ⟨a, rfl⟩ := hi
    by_cases hs : s.faultCode = 0#8
    · exact ⟨_, _, State.issue_running hs, State.issue_running hs, setRxAddr_rxAddr_unread a s ra rl⟩
    · exact ⟨_, _, State.issue_halted hs, State.issue_halted hs, rfl⟩
  · obtain ⟨t, ht⟩ := exec_next i s
    have ht' := exec_mapUnread (f := id) (g := fun _ => ra) (h := fun _ => rl) ht fun a ha => absurd ⟨a, ha⟩ hi
    exact ⟨t, _, ht, ht', rfl⟩

/-- What a fetch gives, with its state put through a function. -/
def Fetched.map (u : State → State) : Fetched → Fetched
  | .idle => .idle
  | .reset s => .reset (u s)
  | .run i s => .run i (u s)
  | .done s => .done (u s)
  | .badBusData => .badBusData
  | .badBusOpcode => .badBusOpcode

theorem State.raise_issueAll (s : State) (f : BlockFault) (opc : Byte) (l : List Input) :
    (s.issueAll l).raise f opc = (s.raise f opc).issueAll l := rfl

theorem fetchWire_issueAll (w : Wire) (s : State) (l : List Input) :
    fetchWire w (s.issueAll l) = (fetchWire w s).map (·.issueAll l) := by
  have same : (s.issueAll l).halted = s.halted := rfl
  cases hs : s.halted
  case true => simp [fetchWire, same, hs, Fetched.map]
  case false =>
    cases w with
    | command bytes =>
      cases hd : decodeCommand bytes with
      | ok i => simp [fetchWire, same, hs, hd, Fetched.map]
      | error err => cases err <;> simp [fetchWire, same, hs, hd, Fetched.map, State.raise_issueAll]
    | bus op out nin =>
      cases hd : decodeBus op out nin with
      | ok i => simp [fetchWire, same, hs, hd, Fetched.map]
      | error err => cases err <;> simp [fetchWire, same, hs, hd, Fetched.map]

/-- What is issued behind an input stays behind it (R25). -/
theorem fetch_issueAll {s : State} (hp : s.port ≠ []) (l : List Input) :
    fetch (s.issueAll l) = (fetch s).map (·.issueAll l) := by
  obtain ⟨x, p, hp⟩ := List.exists_cons_of_ne_nil hp
  have hl : (s.issueAll l).port = x :: (p ++ l) := by simp [State.issueAll, hp]
  cases x with
  | reset => simp only [fetch, hp, hl]; rfl
  | wire w => simp only [fetch, hp, hl]; exact fetchWire_issueAll w { s with port := p } l

/-- Settles O56: the fetch takes the oldest input, and no instruction reads the port. -/
theorem laterInputsWait : Obligations.LaterInputsWait := by
  intro s t l hp ht
  unfold step at ht ⊢
  rw [fetch_issueAll hp l]
  cases hf : fetch s with
  | idle =>
    obtain rfl : s = t := by simpa [hf] using ht
    rfl
  | reset u =>
    obtain rfl : u.resetBlock = t := by simpa [hf] using ht
    rfl
  | run i u =>
    have ht : exec i u = .next t := by simpa [hf] using ht
    exact exec_issueAll ht l
  | done u =>
    obtain rfl : u = t := by simpa [hf] using ht
    rfl
  | badBusData => simp [hf] at ht
  | badBusOpcode => simp [hf] at ht

end Sys2Proof.Machine
end

section
/-! PROOFS. The invariant of the registers (10_state.md R23 to R34): what decodes is well-formed (30_encoding.md R72, R77), how
long a frame and a de-framed payload are (40_framer.md R107, R109), and that every operation keeps the invariant. -/

namespace Sys2Proof

open Sys2Proof.Machine

/-! ### What decodes is well-formed -/

theorem countedOperand_length_le {rest a : List Byte} (h : countedOperand rest = some a) : a.length ≤ 255 := by
  cases rest with
  | nil => cases h
  | cons n b =>
    obtain ⟨hlen, rfl⟩ : b.length = n.toNat ∧ b = a := by simpa [countedOperand] using h
    have := n.isLt
    omega

theorem Cmd.decodeOperands_wellFormed {c : Cmd} {rest : List Byte} {i : Instr} (h : c.decodeOperands rest = some i) :
    i.WellFormed := by
  cases c <;> obtain ⟨a, ha, rfl⟩ := Option.map_eq_some_iff.1 h
  case configure | readPayload | bitrev8 => rfl
  case qCx10 | qSymax | qSymaxThr | qYd717 | qFlag | qMode => rfl
  all_goals exact decide_eq_true (countedOperand_length_le ha)

theorem decodeCommand_wellFormed {bytes : List Byte} {i : Instr} (h : decodeCommand bytes = .ok i) : i.WellFormed := by
  cases bytes with
  | nil => cases h
  | cons op rest =>
    unfold decodeCommand at h
    cases hc : Cmd.ofByte op with
    | none => simp [hc] at h
    | some c =>
      cases ho : c.decodeOperands rest with
      | none => simp [hc, ho] at h
      | some j =>
        obtain rfl : j = i := by simpa [hc, ho] using h
        exact Cmd.decodeOperands_wellFormed ho

theorem busIf_wellFormed {ok : Bool} {i j : Instr} (h : busIf ok i = .ok j) (hi : ok = true → i.WellFormed) :
    j.WellFormed := by
  cases ok with
  | false => cases h
  | true => cases h; exact hi rfl

/-- The data each bus opcode admits (log entry 7) is that of a well-formed instruction. -/
theorem decodeBus_wellFormed {op : Byte} {out : List Byte} {nin : Nat} {i : Instr} (h : decodeBus op out nin = .ok i) :
    i.WellFormed := by
  unfold decodeBus at h
  split_ifs at h
  · exact busIf_wellFormed h fun ok => (Bool.and_eq_true_iff.1 ok).2
  · exact busIf_wellFormed h fun ok => (Bool.decide_and ..).trans (Bool.and_eq_true_iff.1 ok).1
  · exact busIf_wellFormed h fun ok => (Bool.and_eq_true_iff.1 ok).2
  · exact busIf_wellFormed h fun ok => (Bool.decide_and ..).trans (Bool.and_eq_true_iff.1 ok).1
  · exact busIf_wellFormed h fun _ => rfl
  · exact busIf_wellFormed h fun _ => rfl
  · split at h
    · cases h; rfl
    · cases h
  · exact busIf_wellFormed h fun _ => rfl

theorem decode_wellFormed {w : Wire} {i : Instr} (h : decode w = .ok i) : i.WellFormed := by
  cases w with
  | command bytes => exact decodeCommand_wellFormed h
  | bus op out nin => exact decodeBus_wellFormed h

end Sys2Proof

namespace Sys2Proof.Machine

/-! ### The lengths of a frame and of a de-framed payload -/

/-- A frame that is built has the length of R107. -/
theorem frame_length {cfg : Config} {alen : Nat} {tx msg f : List Byte} {crcOn : Bool} (ht : tx.length = alen)
    (h : frame cfg alen tx msg crcOn = .ok f) : f.length = frameLength alen msg.length crcOn := by
  obtain ⟨a, p, ha, hp, parts⟩ := frame_parts h
  have la : a.length = alen := by simpa [ht] using scrambleFrom_length cfg ha
  have lp : p.length = msg.length := by simpa using scrambleFrom_length cfg hp
  obtain ⟨rfl, rfl⟩ | ⟨rfl, x, -, rfl⟩ := parts <;>
    simp only [frameLength, List.length_append, frameLead_length, la, lp] <;> rfl

/-- What WRITE_PAYLOAD sends has the length its fourth check admits (R113). -/
theorem writeFrame_length {m f : List Byte} {s : State} (h : writeFrame m s = .ok f) :
    ∃ a crcOn, s.alen = some a ∧ f.length = frameLength a.toNat m.length crcOn ∧ f.length ≤ maxData := by
  unfold writeFrame at h
  cases ha : s.alen with
  | none => simp [ha] at h
  | some a =>
    cases ht : s.txBytes a.toNat with
    | none => simp [ha, ht] at h
    | some tx =>
      cases hc : s.crcOn with
      | none => simp [ha, ht, hc] at h
      | some crcOn =>
        simp only [ha, ht, hc] at h
        split_ifs at h with fits
        have len := frame_length (State.txBytes_length ht) h
        exact ⟨a, crcOn, rfl, len, by omega⟩

theorem unframeFrom_length {cfg : Config} {alen k : Nat} {l r : List Byte} (h : unframeFrom cfg alen k l = .ok r) :
    r.length = l.length := by
  induction l generalizing k r with
  | nil => cases h; rfl
  | cons b bs ih =>
    unfold unframeFrom at h
    cases hb : unframe cfg alen k b with
    | error e => simp [hb] at h
    | ok c =>
      cases hr : unframeFrom cfg alen (k + 1) bs with
      | error e => simp [hb, hr] at h
      | ok cs =>
        obtain rfl : c :: cs = r := by simpa [hb, hr] using h
        simp [ih hr]

/-- What READ_PAYLOAD leaves in RXMSG has the length its second check admits (R114). -/
theorem readMessage_length {len : Byte} {l : List Byte} {s : State} (h : readMessage len s = .ok l) :
    l.length = len.toNat ∧ len.toNat ≤ maxData := by
  unfold readMessage at h
  cases ha : s.alen with
  | none => simp [ha] at h
  | some a =>
    simp only [ha] at h
    split_ifs at h with fits
    exact ⟨by simpa using unframeFrom_length h, not_lt.1 fits⟩

/-! ### The address registers -/

/-- Setting an address of `n` bytes writes the first `n` registers and no other (R110, R111). -/
theorem addrWritten_addrRegs (a : List Byte) : addrWritten (addrRegs a) a.length := by
  intro i
  rw [Bool.eq_iff_iff]
  simp [addrRegs]

theorem addrWritten_replicate_none : addrWritten (Vector.replicate 5 none) 0 := by
  intro i
  simp

/-- The length byte of an address that is admitted: 3 to 5, the number of registers written. -/
theorem addrLenByte_range {a : List Byte} (h : addrLenOk a = true) :
    alenMin ≤ (addrLenByte a).toNat ∧ (addrLenByte a).toNat ≤ alenMax ∧ addrWritten (addrRegs a) (addrLenByte a).toNat := by
  rw [addrLenByte_toNat h]
  obtain ⟨lo, hi⟩ := (addrLenOk_iff a).1 h
  exact ⟨lo, hi, addrWritten_addrRegs a⟩

/-! ### What keeps the invariant -/

/-- The opcode of a register write is in its pattern, whatever the register (R77, R172). -/
theorem wregOpcode_pattern (r : Byte) : wregOpcode r &&& 0xE0#8 = 0x20#8 := by
  revert r
  decide

theorem State.resetBlock_inv (s : State) : s.resetBlock.Inv where
  alen_range := nofun
  rxAlen_range := nofun
  txAddr_shape := ⟨0, addrWritten_replicate_none, .inl rfl⟩
  alen_tx := nofun
  crc_mirror := rfl
  mirror_stripped := nofun
  rxMsg_length := nofun
  status_last := rfl
  log_emitted := nofun
  fault_code := Nat.zero_le _
  fault_opc := fun _ => rfl

/-- Settles O57: the reset state is what the reset input leaves of itself. -/
theorem invReset : Obligations.InvReset := State.reset.resetBlock_inv

section Keeps

variable {s : State}

theorem State.Inv.withPort (h : s.Inv) (p : List Input) : ({ s with port := p } : State).Inv := { h with }

theorem State.Inv.raise (h : s.Inv) (f : BlockFault) (opc : Byte) : (s.raise f opc).Inv :=
  { h with
    fault_code := f.code_le
    fault_opc := fun none => absurd none f.code_ne_zero }

theorem State.Inv.setRes (h : s.Inv) (w : Word) : (s.setRes w).Inv := { h with }

/-- An exchange that the block can issue keeps STATUS the last record's (R32). -/
theorem State.Inv.exchange (h : s.Inv) {op : Byte} {out : List Byte} {nin : Nat}
    (he : Exchange.Emitted ⟨op, out, nin, s.nextDraw 0, s.drawnBytes nin⟩) : (s.exchange op out nin).Inv :=
  { h with
    status_last := by simp
    log_emitted := by
      simp only [State.exchange_busLog, List.forall_mem_append, List.forall_mem_singleton]
      exact ⟨h.log_emitted, he⟩ }

theorem State.Inv.exchange_wreg (h : s.Inv) (r : Byte) {out : List Byte} (lo : 1 ≤ out.length) (hi : out.length ≤ maxData) :
    (s.exchange (wregOpcode r) out 0).Inv :=
  h.exchange ⟨s.drawnBytes_length 0, .inl ⟨wregOpcode_pattern r, lo, hi, rfl⟩⟩

theorem State.Inv.exchange_wpayload (h : s.Inv) {out : List Byte} (lo : minFrame ≤ out.length) (hi : out.length ≤ maxData) :
    (s.exchange wpayloadOpcode out 0).Inv :=
  h.exchange ⟨s.drawnBytes_length 0, .inr (.inl ⟨rfl, lo, hi, rfl⟩)⟩

theorem State.Inv.exchange_rpayload (h : s.Inv) {nin : Nat} (hi : nin ≤ maxData) :
    (s.exchange rpayloadOpcode [] nin).Inv :=
  h.exchange ⟨s.drawnBytes_length nin, .inr (.inr ⟨rfl, rfl, hi⟩)⟩

/-- The five bytes of PRE5 are a register write's (R108). -/
theorem State.Inv.exchange_pre5 (h : s.Inv) (r : Byte) (cfg : Config) (alen : Nat) :
    (s.exchange (wregOpcode r) (pre5 cfg alen) 0).Inv :=
  h.exchange_wreg r (by simp) (by simp [maxData])

/-- SET_TX_ADDR sets the transmit address and ALEN together (R110). -/
theorem State.Inv.withTxAddr (h : s.Inv) {a : List Byte} (ha : addrLenOk a = true) :
    ({ s with txAddr := addrRegs a, alen := some (addrLenByte a) } : State).Inv := by
  obtain ⟨lo, hi, written⟩ := addrLenByte_range ha
  exact { h with
    alen_range := by rintro _ ⟨⟩; exact ⟨lo, hi⟩
    txAddr_shape := ⟨_, written, .inr ⟨lo, hi⟩⟩
    alen_tx := by rintro - _ ⟨⟩; exact written }

/-- SET_RX_ADDR sets the receive address and its length together, and ALEN under ALEN_ON_RX_SET alone (R111). -/
theorem State.Inv.withRxAddr (h : s.Inv) {a : List Byte} (ha : addrLenOk a = true) :
    ({ s with
        rxAddr := addrRegs a
        rxAlen := some (addrLenByte a)
        alen := if s.config.alenOnRxSet then some (addrLenByte a) else s.alen } : State).Inv := by
  obtain ⟨lo, hi, written⟩ := addrLenByte_range ha
  cases on : s.config.alenOnRxSet
  · exact { h with
      rxAlen_range := by rintro _ ⟨⟩; exact ⟨lo, hi, written⟩ }
  · exact { h with
      alen_range := by rintro _ ⟨⟩; exact ⟨lo, hi⟩
      rxAlen_range := by rintro _ ⟨⟩; exact ⟨lo, hi, written⟩
      alen_tx := fun off => absurd (on.symm.trans off) nofun }

/-- CONFIGURE writes CRC_ON and CFG_MIRROR together, the latter stripped (R112). -/
theorem State.Inv.withConfig (h : s.Inv) (b : Byte) :
    ({ s with crcOn := some (crcEnabled s.config b), cfgMirror := some (delegatedConfig s.config b) } : State).Inv :=
  { h with
    crc_mirror := rfl
    mirror_stripped := by rintro _ ⟨⟩; exact delegatedConfig_and_stripMask s.config b }

theorem State.Inv.withRxMsg (h : s.Inv) {l : List Byte} (hl : l.length ≤ maxData) :
    ({ s with rxMsg := some l } : State).Inv :=
  { h with rxMsg_length := by rintro _ ⟨⟩; exact hl }

/-- A frame that is sent has 4 bytes or more: the address has 3, and one stands before an address of 3 (R106, R107). -/
theorem State.Inv.minFrame_le (h : s.Inv) {m f : List Byte} (hf : writeFrame m s = .ok f) : minFrame ≤ f.length := by
  obtain ⟨a, crcOn, ha, len, -⟩ := writeFrame_length hf
  obtain ⟨lo, -⟩ := h.alen_range a ha
  rw [len]
  unfold frameLength leadLength minFrame
  unfold alenMin at lo
  split <;> omega

/-- Every effect of a well-formed instruction keeps the invariant. -/
theorem Effect.inv {i : Instr} {t : State} (e : Effect i s t) (hi : i.WellFormed) (h : s.Inv) : t.Inv := by
  cases e with
  | none => exact h
  | fault f op => exact h.raise f op
  | result w => exact h.setRes w
  | txAddr a _ ha => exact (h.withTxAddr ha).exchange_pre5 _ _ _
  | rxAddr a _ ha => exact (h.withRxAddr ha).exchange_pre5 _ _ _
  | config b => exact (h.withConfig b).exchange_wreg _ le_rfl (show 1 ≤ 31 by decide)
  | write m f _ hf =>
    obtain ⟨-, -, -, -, fits⟩ := writeFrame_length hf
    exact h.exchange_wpayload (h.minFrame_le hf) fits
  | read len l _ hl =>
    obtain ⟨length_eq, fits⟩ := readMessage_length hl
    exact (h.withRxMsg (length_eq.trans_le fits)).exchange_rpayload fits
  | busWreg r out hr =>
    subst hr
    obtain ⟨lo, fits⟩ := of_decide_eq_true hi
    exact h.exchange_wreg _ lo fits
  | busWpayload out hr =>
    subst hr
    obtain ⟨lo, fits⟩ := of_decide_eq_true hi
    exact h.exchange_wpayload lo fits
  | busRpayload nin hr =>
    subst hr
    exact h.exchange_rpayload (of_decide_eq_true hi)

end Keeps

/-- Settles O58: along what a step can do; the instruction that runs is well-formed because it was decoded. -/
theorem invStep : Obligations.InvStep := by
  intro s t h hstep
  obtain ⟨-, rfl⟩ | ⟨p, -, rfl⟩ | ⟨w, p, i, -, hd, hs, hx⟩ | ⟨w, p, -, -, rfl⟩ | ⟨bytes, p, f, -, -, rfl⟩ :=
    step_cases hstep
  · exact h
  · exact State.resetBlock_inv _
  · exact (exec_effect (s := { s with port := p }) hs hx).inv (decode_wellFormed hd) (h.withPort p)
  · exact h.withPort p
  · exact (h.withPort p).raise f _

end Sys2Proof.Machine
end

section
/-! PROOFS. The statements of 30_encoding.md: the decoder and the encoder are inverse (R70 to R73, R77), which strings fault
and how (R70, R74), and the assembler (R76). -/

namespace Sys2Proof

open Sys2Proof.Machine

/-! ### Opcode bytes and command operands -/

@[simp] theorem Cmd.ofByte_byte (c : Cmd) : Cmd.ofByte c.byte = some c := by cases c <;> rfl

theorem Cmd.byte_of_ofByte {b : Byte} {c : Cmd} (h : Cmd.ofByte b = some c) : c.byte = b := by
  simpa using List.find?_some h

theorem decodeCommand_of_illegal {op : Byte} (h : Cmd.ofByte op = none) (rest : List Byte) :
    decodeCommand (op :: rest) = .error .illegalOpcode := by
  simp [decodeCommand, h]

theorem decodeCommand_byte (c : Cmd) (rest : List Byte) :
    decodeCommand (c.byte :: rest) = (c.decodeOperands rest).elim (.error .cmdLength) .ok := by
  cases h : c.decodeOperands rest <;> simp [decodeCommand, h]

/-- A string that decodes is an opcode and the operands of its command (R70, R73). -/
theorem decodeCommand_eq_ok_iff {bytes : List Byte} {i : Instr} :
    decodeCommand bytes = .ok i ↔ ∃ (c : Cmd) (rest : List Byte), c.byte :: rest = bytes ∧ c.decodeOperands rest = some i := by
  constructor
  · intro h
    cases bytes with
    | nil => cases h
    | cons op rest =>
      cases hc : Cmd.ofByte op with
      | none => cases (decodeCommand_of_illegal hc rest).symm.trans h
      | some c =>
        obtain rfl := Cmd.byte_of_ofByte hc
        rw [decodeCommand_byte] at h
        cases ho : c.decodeOperands rest with
        | none => simp [ho] at h
        | some j => exact ⟨c, rest, rfl, by simpa [ho] using h⟩
  · rintro ⟨c, rest, rfl, h⟩
    simp [decodeCommand_byte, h]

theorem countedOperand_count {a : List Byte} (h : a.length ≤ 255) :
    countedOperand (BitVec.ofNat 8 a.length :: a) = some a := by
  have hn : a.length = (BitVec.ofNat 8 a.length).toNat := by simp; omega
  exact if_pos hn

theorem count_of_countedOperand {rest a : List Byte} (h : countedOperand rest = some a) :
    BitVec.ofNat 8 a.length :: a = rest := by
  cases rest with
  | nil => cases h
  | cons n b =>
    obtain ⟨hlen, rfl⟩ : b.length = n.toNat ∧ b = a := by simpa [countedOperand] using h
    simp [hlen]

theorem byteOperand_eq_some_iff {rest : List Byte} {b : Byte} : byteOperand rest = some b ↔ rest = [b] := by
  unfold byteOperand
  split <;> simp_all

/-- The channel is its high byte before its low byte (R72). -/
theorem channelOperand_eq_append (lo hi : Byte) : channelOperand [lo, hi] = some (hi ++ lo : BitVec 16) := by
  rw [channelOperand, BitVec.append_def, BitVec.shiftLeftZeroExtend_eq, BitVec.setWidth'_eq]

theorem extractLsb'_append_halves (v : Word) : (v.extractLsb' 8 8 ++ v.extractLsb' 0 8 : BitVec 16) = v :=
  BitVec.extractLsb'_append_extractLsb' (w := 8) (len := 8)

theorem channelOperand_halves (v : Word) : channelOperand [v.extractLsb' 0 8, v.extractLsb' 8 8] = some v := by
  rw [channelOperand_eq_append, extractLsb'_append_halves]

theorem halves_of_channelOperand {rest : List Byte} {v : Word} (h : channelOperand rest = some v) :
    [v.extractLsb' 0 8, v.extractLsb' 8 8] = rest := by
  match rest, h with
  | [lo, hi], h =>
    obtain rfl : hi ++ lo = v := Option.some.inj ((channelOperand_eq_append lo hi).symm.trans h)
    rw [BitVec.extractLsb'_append_eq_right, BitVec.extractLsb'_append_eq_left]

/-! ### The operands of a command, by its format (R71, R73) -/

theorem Cmd.decodeOperands_counted {c : Cmd} (h : c.format = .a ∨ c.format = .p ∨ c.format = .k) :
    ∃ mk, ∀ rest, c.decodeOperands rest = (countedOperand rest).map mk := by
  cases c
  case setTxAddr | setRxAddr | writePayload => exact ⟨_, fun _ => rfl⟩
  case ckSymaxXor | ckSymaxAdd | ckYd717 | crc16Raw => exact ⟨_, fun _ => rfl⟩
  all_goals simp [Cmd.format] at h

theorem Cmd.decodeOperands_byte {c : Cmd} (h : c.format = .c ∨ c.format = .r) :
    ∃ mk, ∀ rest, c.decodeOperands rest = (byteOperand rest).map mk := by
  cases c
  case configure | readPayload | bitrev8 => exact ⟨_, fun _ => rfl⟩
  all_goals simp [Cmd.format] at h

theorem Cmd.decodeOperands_channel {c : Cmd} (h : c.format = .q) :
    ∃ mk, ∀ rest, c.decodeOperands rest = (channelOperand rest).map mk := by
  cases c
  case qCx10 | qSymax | qSymaxThr | qYd717 | qFlag | qMode => exact ⟨_, fun _ => rfl⟩
  all_goals simp [Cmd.format] at h

section Operands

variable {c : Cmd}

theorem decode_encodeCounted {mk : List Byte → Instr} (hc : ∀ rest, c.decodeOperands rest = (countedOperand rest).map mk)
    {a : List Byte} (ha : a.length ≤ 255) : decode (encodeCounted c a) = .ok (mk a) :=
  decodeCommand_eq_ok_iff.2 ⟨c, _, rfl, by rw [hc, countedOperand_count ha]; rfl⟩

theorem decode_encodeByte {mk : Byte → Instr} (hc : ∀ rest, c.decodeOperands rest = (byteOperand rest).map mk) (b : Byte) :
    decode (encodeByte c b) = .ok (mk b) :=
  decodeCommand_eq_ok_iff.2 ⟨c, _, rfl, by rw [hc]; rfl⟩

theorem decode_encodeChannel {mk : Word → Instr} (hc : ∀ rest, c.decodeOperands rest = (channelOperand rest).map mk)
    (v : Word) : decode (encodeChannel c v) = .ok (mk v) :=
  decodeCommand_eq_ok_iff.2 ⟨c, _, rfl, by rw [hc, channelOperand_halves]; rfl⟩

end Operands

/-! ### Opcode bytes of the bus -/

theorem busIf_eq_ok_iff {ok : Bool} {i j : Instr} : busIf ok i = .ok j ↔ ok = true ∧ i = j := by
  cases ok <;> simp [busIf]

section BusData

variable {i j : Instr} {out : List Byte} {nin : Nat}

theorem busIf_bare (h : busIf (out.length = 0 && nin = 0) i = .ok j) : out = [] ∧ nin = 0 ∧ i = j := by
  obtain ⟨ok, rfl⟩ := busIf_eq_ok_iff.1 h
  simpa using ok

theorem busIf_in (h : busIf (out.length = 0 && nin ≤ maxData) i = .ok j) : out = [] ∧ i = j := by
  obtain ⟨ok, rfl⟩ := busIf_eq_ok_iff.1 h
  exact ⟨List.length_eq_zero_iff.1 (of_decide_eq_true (Bool.and_eq_true_iff.1 ok).1), rfl⟩

theorem busIf_out {lo : Nat} (h : busIf (lo ≤ out.length && out.length ≤ maxData && nin = 0) i = .ok j) :
    nin = 0 ∧ i = j := by
  obtain ⟨ok, rfl⟩ := busIf_eq_ok_iff.1 h
  exact ⟨of_decide_eq_true (Bool.and_eq_true_iff.1 ok).2, rfl⟩

end BusData

/-- The register opcodes are their patterns, filled with the register number (R77). -/
theorem rregOpcode_register {op : Byte} (h : op &&& 0xE0#8 = 0x00#8) : rregOpcode ((op.setWidth 5).setWidth 8) = op := by
  revert op
  decide

theorem wregOpcode_register {op : Byte} (h : op &&& 0xE0#8 = 0x20#8) : wregOpcode ((op.setWidth 5).setWidth 8) = op := by
  revert op
  decide

theorem rregOpcode_fields (r : BitVec 5) :
    rregOpcode (r.setWidth 8) &&& 0xE0#8 = 0x00#8 ∧ (rregOpcode (r.setWidth 8)).setWidth 5 = r := by
  revert r
  decide

theorem wregOpcode_setWidth (r : BitVec 5) : (wregOpcode (r.setWidth 8)).setWidth 5 = r := by
  revert r
  decide

theorem ActivateCode.ofByte_eq_some_iff {b : Byte} {code : ActivateCode} : ofByte b = some code ↔ b = code.byte := by
  unfold ofByte
  cases code <;> split_ifs <;> simp_all [byte]

/-! ### The decoder and the encoder are inverse -/

theorem decodeBus_rreg (r : BitVec 5) {nin : Nat} (h : nin ≤ maxData) :
    decodeBus (rregOpcode (r.setWidth 8)) [] nin = .ok (.busRreg r nin) := by
  obtain ⟨pattern, register⟩ := rregOpcode_fields r
  simp [decodeBus, busIf, pattern, register, h]

theorem decodeBus_wreg (r : BitVec 5) {out : List Byte} (lo : 1 ≤ out.length) (hi : out.length ≤ maxData) :
    decodeBus (wregOpcode (r.setWidth 8)) out 0 = .ok (.busWreg r out) := by
  simp [decodeBus, busIf, wregOpcode_pattern, wregOpcode_setWidth, lo, hi]

/-- Settles O1: by the format of the command, or the pattern of the bus opcode. -/
theorem decodeEncode : Obligations.DecodeEncode := by
  intro i h
  cases i
  case setTxAddr | setRxAddr | writePayload => exact decode_encodeCounted (fun _ => rfl) (of_decide_eq_true h)
  case ckSymaxXor | ckSymaxAdd | ckYd717 | crc16Raw => exact decode_encodeCounted (fun _ => rfl) (of_decide_eq_true h)
  case configure | readPayload | bitrev8 => exact decode_encodeByte (fun _ => rfl) _
  case qCx10 | qSymax | qSymaxThr | qYd717 | qFlag | qMode => exact decode_encodeChannel (fun _ => rfl) _
  case busRreg r nin => exact decodeBus_rreg r (of_decide_eq_true h)
  case busWreg r out =>
    obtain ⟨lo, hi⟩ := of_decide_eq_true h
    exact decodeBus_wreg r lo hi
  case busRpayload nin => exact busIf_eq_ok_iff.2 ⟨h, rfl⟩
  case busWpayload out =>
    obtain ⟨lo, hi⟩ := of_decide_eq_true h
    exact busIf_eq_ok_iff.2 ⟨by simp [lo, hi], rfl⟩
  case busFlushTx | busFlushRx | busNop => rfl
  case busActivate code => cases code <;> rfl

/-- An operand list that decodes is the one spelling of its instruction (R71, R72). -/
theorem Cmd.encode_of_decodeOperands {c : Cmd} {rest : List Byte} {i : Instr} (h : c.decodeOperands rest = some i) :
    encode i = .command (c.byte :: rest) := by
  cases c <;> obtain ⟨a, ha, rfl⟩ := Option.map_eq_some_iff.1 h
  case configure | readPayload | bitrev8 => rw [byteOperand_eq_some_iff.1 ha]; rfl
  case qCx10 | qSymax | qSymaxThr | qYd717 | qFlag | qMode => rw [← halves_of_channelOperand ha]; rfl
  all_goals rw [← count_of_countedOperand ha]; rfl

/-- An exchange that decodes is the one spelling of its instruction (R77). -/
theorem encode_of_decodeBus {op : Byte} {out : List Byte} {nin : Nat} {i : Instr} (h : decodeBus op out nin = .ok i) :
    encode i = .bus op out nin := by
  unfold decodeBus at h
  split_ifs at h with rreg wreg rpayload wpayload flushTx flushRx activate nop
  · obtain ⟨rfl, rfl⟩ := busIf_in h
    exact congrArg (Wire.bus · [] nin) (rregOpcode_register rreg)
  · obtain ⟨rfl, rfl⟩ := busIf_out h
    exact congrArg (Wire.bus · out 0) (wregOpcode_register wreg)
  · obtain ⟨rfl, rfl⟩ := busIf_in h
    rw [rpayload]; rfl
  · obtain ⟨rfl, rfl⟩ := busIf_out h
    rw [wpayload]; rfl
  · obtain ⟨rfl, rfl, rfl⟩ := busIf_bare h
    rw [flushTx]; rfl
  · obtain ⟨rfl, rfl, rfl⟩ := busIf_bare h
    rw [flushRx]; rfl
  · split at h
    next code codes =>
      cases h
      obtain ⟨b, rfl, hb⟩ := List.map_eq_singleton_iff.1 codes
      rw [activate, ActivateCode.ofByte_eq_some_iff.1 hb]; rfl
    next => cases h
  · obtain ⟨rfl, rfl, rfl⟩ := busIf_bare h
    rw [nop]; rfl

theorem encode_of_decode {w : Wire} {i : Instr} (h : decode w = .ok i) : encode i = w := by
  cases w with
  | command bytes =>
    obtain ⟨c, rest, rfl, ho⟩ := decodeCommand_eq_ok_iff.1 h
    exact Cmd.encode_of_decodeOperands ho
  | bus op out nin => exact encode_of_decodeBus h

/-- Settles O2: no operand reader and no bus pattern drops a bit. -/
theorem decodeOnlyEncodings : Obligations.DecodeOnlyEncodings := fun _ _ h => ⟨decode_wellFormed h, encode_of_decode h⟩

theorem decode_eq_ok_iff {w : Wire} {i : Instr} : decode w = .ok i ↔ i.WellFormed ∧ encode i = w :=
  ⟨decodeOnlyEncodings w i, fun ⟨hi, hw⟩ => hw ▸ decodeEncode i hi⟩

/-- Settles O6: each word is the spelling of its instruction. -/
theorem decodeWords : Obligations.DecodeWords :=
  ⟨decode_eq_ok_iff.2 ⟨rfl, rfl⟩, decode_eq_ok_iff.2 ⟨rfl, rfl⟩, decode_eq_ok_iff.2 ⟨rfl, rfl⟩,
    decode_eq_ok_iff.2 ⟨rfl, rfl⟩, decode_eq_ok_iff.2 ⟨rfl, rfl⟩, decode_eq_ok_iff.2 ⟨rfl, rfl⟩,
    decode_eq_ok_iff.2 ⟨rfl, rfl⟩⟩

/-! ### Strings that do not decode (R70, R74) -/

/-- The strings of no command are those of an illegal opcode, whatever follows it (R74). -/
theorem decodeCommand_illegalOpcode_iff {op : Byte} {rest : List Byte} :
    decodeCommand (op :: rest) = .error .illegalOpcode ↔ Cmd.ofByte op = none := by
  cases hc : Cmd.ofByte op with
  | none => simp [decodeCommand_of_illegal hc]
  | some c =>
    obtain rfl := Cmd.byte_of_ofByte hc
    rw [decodeCommand_byte]
    cases c.decodeOperands rest <;> simp

/-- The illegal opcodes, as R74 lists them. -/
theorem Cmd.ofByte_eq_none_iff (op : Byte) :
    Cmd.ofByte op = none ↔
      op.toNat = 0x00 ∨ (0x06 ≤ op.toNat ∧ op.toNat ≤ 0x0F) ∨ (0x16 ≤ op.toNat ∧ op.toNat ≤ 0x1F) ∨
        (0x23 ≤ op.toNat ∧ op.toNat ≤ 0x2F) ∨ 0x32 ≤ op.toNat := by
  revert op
  decide

theorem decodeCommand_error {bytes : List Byte} {e : DecodeError} (h : decodeCommand bytes = .error e) :
    e = .illegalOpcode ∨ e = .cmdLength := by
  cases bytes with
  | nil => cases h; exact .inr rfl
  | cons op rest =>
    cases hc : Cmd.ofByte op with
    | none => cases (decodeCommand_of_illegal hc rest).symm.trans h; exact .inl rfl
    | some c =>
      obtain rfl := Cmd.byte_of_ofByte hc
      rw [decodeCommand_byte] at h
      cases ho : c.decodeOperands rest with
      | none => exact .inr (by simpa [ho] using h.symm)
      | some j => simp [ho] at h

/-- The fault a command string that does not decode takes (R200). -/
def DecodeError.blockFault : DecodeError → BlockFault
  | .illegalOpcode => .illegalOpcode
  | _ => .cmdLength

/-- A step on such a string takes that fault, with byte 0 of the string, or 0 (R201). -/
theorem step_decodeCommand_error {s : State} {bytes : List Byte} {p : List Input} {e : DecodeError} (hs : s.faultCode = 0#8)
    (hp : s.port = .wire (.command bytes) :: p) (hd : decodeCommand bytes = .error e) :
    step s = .next (State.raise { s with port := p } e.blockFault (bytes.headD 0#8)) := by
  have running : ({ s with port := p } : State).halted = false := (State.not_halted_iff _).2 hs
  have hfetch : fetch s = .done (State.raise { s with port := p } e.blockFault (bytes.headD 0#8)) := by
    simp only [fetch, hp, fetchWire, running, hd]
    cases e <;> rfl
  simp only [step, hfetch]

/-- Settles O3: the opcode map, one row per range of R74. -/
theorem illegalOpcode : Obligations.IllegalOpcode := fun op _ =>
  ⟨decodeCommand_illegalOpcode_iff.trans (Cmd.ofByte_eq_none_iff op), fun _ _ => step_decodeCommand_error⟩

/-- Settles O4: a command string has no other error than the two, and the length error is a fault of the block. -/
theorem commandLength : Obligations.CommandLength := by
  refine ⟨fun bytes => ?_, rfl, fun s p bytes => step_decodeCommand_error⟩
  cases hd : decode (.command bytes) with
  | ok i => exact .inl ⟨i, rfl⟩
  | error e =>
    obtain rfl | rfl := decodeCommand_error hd
    · exact .inr (.inl rfl)
    · exact .inr (.inr rfl)

/-! ### The assembler (R76) -/

theorem AsmNum.byte?_of_toNat {n : AsmNum} {b : Byte} (h : n = .hex b.toNat ∨ n = .dec b.toNat) : n.byte? = some b := by
  have := b.isLt
  obtain rfl | rfl := h
  · simp [byte?]; omega
  · simp [byte?]; omega

theorem asmBytes_of_toNat {ops : List AsmNum} {a : List Byte}
    (h : List.Forall₂ (fun n b => n = .hex b.toNat ∨ n = .dec b.toNat) ops a) : asmBytes ops = some a := by
  induction h with
  | nil => rfl
  | cons hb _ ih => simp [asmBytes, AsmNum.byte?_of_toNat hb, ih]

section Assemble

variable {c : Cmd} {ops : List AsmNum} {bytes : List Byte}

theorem assemble_counted_iff (h : c.format = .a ∨ c.format = .p ∨ c.format = .k) :
    assemble ⟨c, ops⟩ = some bytes ↔
      ∃ a, asmBytes ops = some a ∧ a.length ≤ 255 ∧ c.byte :: BitVec.ofNat 8 a.length :: a = bytes := by
  have same : assemble ⟨c, ops⟩ = (asmBytes ops).bind fun a =>
      if a.length ≤ 255 then some (c.byte :: BitVec.ofNat 8 a.length :: a) else none := by
    obtain h | h | h := h <;> simp only [assemble, h] <;> cases asmBytes ops <;> rfl
  simp [same, Option.bind_eq_some_iff]

theorem assemble_byte_iff (h : c.format = .c ∨ c.format = .r) :
    assemble ⟨c, ops⟩ = some bytes ↔ ∃ x b, ops = [x] ∧ x.byte? = some b ∧ [c.byte, b] = bytes := by
  obtain h | h := h <;> rcases ops with _ | ⟨x, _ | ⟨y, ys⟩⟩ <;> simp [assemble, h]

theorem assemble_channel_iff (h : c.format = .q) :
    assemble ⟨c, ops⟩ = some bytes ↔
      ∃ x v, ops = [x] ∧ x.channel? = some v ∧ [c.byte, v.extractLsb' 0 8, v.extractLsb' 8 8] = bytes := by
  rcases ops with _ | ⟨x, _ | ⟨y, ys⟩⟩ <;> simp [assemble, h]

/-- What a line assembles to is its opcode and operands that the decoder reads (R76). -/
theorem assemble_decodes (h : assemble ⟨c, ops⟩ = some bytes) :
    ∃ rest i, bytes = c.byte :: rest ∧ decode (.command bytes) = .ok i := by
  cases hf : c.format
  case a | p | k =>
    obtain ⟨a, -, fits, rfl⟩ := (assemble_counted_iff (by simp [hf])).1 h
    obtain ⟨mk, hmk⟩ := Cmd.decodeOperands_counted (c := c) (by simp [hf])
    exact ⟨_, _, rfl, decode_encodeCounted hmk fits⟩
  case c | r =>
    obtain ⟨x, b, -, -, rfl⟩ := (assemble_byte_iff (by simp [hf])).1 h
    obtain ⟨mk, hmk⟩ := Cmd.decodeOperands_byte (c := c) (by simp [hf])
    exact ⟨_, _, rfl, decode_encodeByte hmk b⟩
  case q =>
    obtain ⟨x, v, -, -, rfl⟩ := (assemble_channel_iff hf).1 h
    obtain ⟨mk, hmk⟩ := Cmd.decodeOperands_channel hf
    exact ⟨_, _, rfl, decode_encodeChannel hmk v⟩

/-- A channel line of a signed decimal (R76). -/
theorem assemble_channel_dec (h : c.format = .q) {v : Int} (lo : -32768 ≤ v) (hi : v ≤ 32767) :
    ∃ l u : Byte, assemble ⟨c, [.dec v]⟩ = some [c.byte, l, u] ∧ (u ++ l : BitVec 16).toInt = v := by
  have channel : (AsmNum.dec v).channel? = some (BitVec.ofInt 16 v) := if_pos ⟨lo, hi⟩
  refine ⟨_, _, (assemble_channel_iff h).2 ⟨_, _, rfl, channel, rfl⟩, ?_⟩
  rw [extractLsb'_append_halves]
  exact BitVec.toInt_ofInt_eq_self (by decide) lo (by omega)

/-- A channel line of a 16-bit hexadecimal value (R76). -/
theorem assemble_channel_hex (h : c.format = .q) {v : Nat} (hv : v ≤ 65535) :
    ∃ l u : Byte, assemble ⟨c, [.hex v]⟩ = some [c.byte, l, u] ∧ l.toNat = v % 256 ∧ u.toNat = v / 256 := by
  have channel : (AsmNum.hex v).channel? = some (BitVec.ofNat 16 v) := if_pos hv
  refine ⟨_, _, (assemble_channel_iff h).2 ⟨_, _, rfl, channel, rfl⟩, ?_, ?_⟩
  · simp
  · simp [Nat.shiftRight_eq_div_pow]
    omega

end Assemble

/-- Settles O8: what assembles decodes, and each format's lines assemble. -/
theorem assembleDecodes : Obligations.AssembleDecodes := by
  refine ⟨fun l bytes h => ?_, fun c a ops hf fits hops => ?_, fun c b hf => ⟨?_, ?_⟩,
    fun c hf => ⟨fun v lo hi => ?_, fun v hv => ?_⟩⟩
  · obtain ⟨rest, i, rfl, hd⟩ := assemble_decodes h
    exact ⟨rfl, i, hd, encode_of_decode hd⟩
  · exact (assemble_counted_iff hf).2 ⟨a, asmBytes_of_toNat hops, fits, rfl⟩
  · exact (assemble_byte_iff hf).2 ⟨_, b, rfl, AsmNum.byte?_of_toNat (.inl rfl), rfl⟩
  · exact (assemble_byte_iff hf).2 ⟨_, b, rfl, AsmNum.byte?_of_toNat (.inr rfl), rfl⟩
  · exact assemble_channel_dec hf lo hi
  · exact assemble_channel_hex hf hv

end Sys2Proof
end

section
/-! PROOFS. The statements of 40_framer.md: bit reversal (R101), the CRC as a linear map (R103, R104), the bytes of a frame and
its inverse (R105 to R109, R117), and the seven commands of the framer (R110 to R116). -/

namespace Sys2Proof.Machine

/-! ### How a framer command is spelled (R71) -/

theorem spelledCounted {c : Cmd} {mk : List Byte → Instr}
    (hc : ∀ rest, c.decodeOperands rest = (countedOperand rest).map mk) : SpelledCounted c.byte mk := by
  intro rest
  rw [decode, decodeCommand_byte, hc]
  cases rest with
  | nil => rfl
  | cons n a =>
    by_cases h : a.length = n.toNat
    · simp [countedOperand, h]
    · simp [countedOperand, h]

theorem spelledByte {c : Cmd} {mk : Byte → Instr}
    (hc : ∀ rest, c.decodeOperands rest = (byteOperand rest).map mk) : SpelledByte c.byte mk := by
  intro rest
  rw [decode, decodeCommand_byte, hc]
  rcases rest with _ | ⟨b, _ | ⟨b', bs⟩⟩ <;> rfl

/-! ### Bit reversal (R101) -/

@[simp] theorem rev8_rev8 (b : Byte) : rev8 (rev8 b) = b := by
  apply BitVec.eq_of_getLsbD_eq
  intro i hi
  have outer := rev8_getLsbD (rev8 b) ⟨i, hi⟩
  have inner := rev8_getLsbD b ⟨7 - i, by omega⟩
  rw [show 7 - (7 - i) = i by omega] at inner
  exact outer.trans inner

theorem rev8_eq_self_iff (b : Byte) :
    rev8 b = b ↔ b.toNat ∈ [0x00, 0x18, 0x24, 0x3C, 0x42, 0x5A, 0x66, 0x7E, 0x81, 0x99, 0xA5, 0xBD, 0xC3, 0xDB, 0xE7, 0xFF] := by
  revert b
  decide

/-- Settles O11: the inverse follows from the bits; the fixed points are read off all bytes. -/
theorem rev8Law : Obligations.Rev8Law := fun b =>
  ⟨fun i hi => rev8_getLsbD b ⟨i, hi⟩, rev8_rev8 b, rev8_eq_self_iff b⟩

/-! ### The CRC (R103, R104) -/

/-- The byte enters at the high end, then the register is shifted eight times. -/
theorem crcStep_eq_iterate (c : Word) (b : Byte) : crcStep c b = crcShift^[8] (c ^^^ (b.setWidth 16 <<< 8)) := rfl

/-- What a shift XORs in when `out` is the bit that went out. -/
def crcFeedback (out : Bool) : Word := if out then crcPoly else 0#16

theorem crcShift_eq_feedback (t : Word) : crcShift t = t <<< 1 ^^^ crcFeedback (t.getLsbD 15) := by
  unfold crcShift crcFeedback
  split
  · rfl
  · exact BitVec.xor_zero.symm

theorem crcFeedback_xor (x y : Bool) : crcFeedback (x ^^ y) = crcFeedback x ^^^ crcFeedback y := by
  revert x y
  decide

/-- A shift is linear over XOR, as is a division by a polynomial. -/
theorem crcShift_xor (t u : Word) : crcShift (t ^^^ u) = crcShift t ^^^ crcShift u := by
  simp only [crcShift_eq_feedback, BitVec.getLsbD_xor, crcFeedback_xor, BitVec.shiftLeft_xor_distrib]
  ac_rfl

theorem crcStep_xor (c d : Word) (a b : Byte) : crcStep (c ^^^ d) (a ^^^ b) = crcStep c a ^^^ crcStep d b := by
  have linear : Function.Semiconj₂ crcShift (· ^^^ ·) (· ^^^ ·) := crcShift_xor
  simp only [crcStep_eq_iterate, ← (linear.iterate 8).eq]
  rw [BitVec.setWidth_xor, BitVec.shiftLeft_xor_distrib]
  ac_rfl

/-- The shift of R103 over natural numbers. -/
def crcShiftNat (t : Nat) : Nat := if 2 ^ 15 ≤ t then (t * 2 % 2 ^ 16) ^^^ 0x1021 else t * 2 % 2 ^ 16

theorem crcShift_toNat (t : Word) : (crcShift t).toNat = crcShiftNat t.toNat := by
  have out : t.getLsbD 15 = decide (2 ^ 15 ≤ t.toNat) := BitVec.msb_eq_decide t
  have shifted : (t <<< 1).toNat = t.toNat * 2 % 2 ^ 16 := by rw [BitVec.toNat_shiftLeft, Nat.shiftLeft_eq, pow_one]
  unfold crcShift crcShiftNat
  rw [out]
  by_cases h : 2 ^ 15 ≤ t.toNat
  · rw [decide_eq_true h, if_pos rfl, if_pos h, BitVec.toNat_xor, shifted]
    rfl
  · rw [decide_eq_false h, if_neg nofun, if_neg h, shifted]

theorem crcStep_toNat (c : Word) (b : Byte) :
    (crcStep c b).toNat = crcShiftNat^[8] (c.toNat ^^^ (b.toNat * 2 ^ 8)) := by
  have overNat : Function.Semiconj BitVec.toNat crcShift crcShiftNat := crcShift_toNat
  have high : (b.setWidth 16 <<< 8 : Word).toNat = b.toNat * 2 ^ 8 := by
    have := b.isLt
    simp [Nat.shiftLeft_eq]
    omega
  rw [crcStep_eq_iterate, (overNat.iterate_right 8).eq, BitVec.toNat_xor, high]

/-- Settles O12: both laws are those of one shift, eight times. -/
theorem crcStepLinear : Obligations.CrcStepLinear := ⟨crcStep_toNat, crcStep_xor, by decide, by decide⟩

theorem crc16_append (v : Word) (d e : List Byte) : crc16 v (d ++ e) = crc16 (crc16 v d) e := List.foldl_append

/-- Settles O13: the CRC is a fold of the update. -/
theorem crcSequence : Obligations.CrcSequence := by
  refine ⟨fun _ => rfl, fun v d b => crc16_append v d [b], ?_⟩
  simp [crc16, crcStep, crcShift, crcPoly]

/-! ### The preamble and the length of a frame (R107, R108) -/

/-- Settles O14: by the two cases of PRE5. -/
theorem programmedPreamble : Obligations.ProgrammedPreamble := fun _ => ⟨fun _ four_le => if_pos four_le, rfl⟩

/-- Settles O17: an address of 3 or 4 bytes takes four places, one of 5 takes five. -/
theorem largestPayload : Obligations.LargestPayload := by
  intro alen plen crcOn lo hi
  unfold frameLength leadLength
  split_ifs <;> omega

/-! ### Scrambling and de-framing a run of bytes (R102, R109) -/

/-- XORing twice with the same entries gives the bytes back. -/
theorem scrambleFrom_involutive {cfg : Config} {k : Nat} {l r : List Byte} (h : scrambleFrom cfg k l = .ok r) :
    scrambleFrom cfg k r = .ok l := by
  induction l generalizing k r with
  | nil => cases h; rfl
  | cons b bs ih =>
    unfold scrambleFrom at h
    cases hx : romS cfg k with
    | error e => simp [hx] at h
    | ok x =>
      cases hr : scrambleFrom cfg (k + 1) bs with
      | error e => simp [hx, hr] at h
      | ok r' =>
        obtain rfl : (b ^^^ x) :: r' = r := by simpa [hx, hr] using h
        simp [scrambleFrom, hx, ih hr]

/-- De-framing is scrambling from entry `alen`, then reversing each byte. -/
theorem unframeFrom_eq_map (cfg : Config) (alen i : Nat) (l : List Byte) :
    unframeFrom cfg alen i l = (scrambleFrom cfg (alen + i) l).map (List.map rev8) := by
  induction l generalizing i with
  | nil => rfl
  | cons b bs ih =>
    rw [unframeFrom, unframe, scrambleFrom, ih, Nat.add_assoc]
    cases romS cfg (alen + i) with
    | error e => rfl
    | ok x => cases scrambleFrom cfg (alen + (i + 1)) bs <;> rfl

theorem unframeFrom_eq_ok_iff {cfg : Config} {alen i : Nat} {l r : List Byte} :
    unframeFrom cfg alen i l = .ok r ↔ ∃ p, scrambleFrom cfg (alen + i) l = .ok p ∧ p.map rev8 = r := by
  rw [unframeFrom_eq_map]
  cases scrambleFrom cfg (alen + i) l <;> simp [Except.map]

/-- De-framing what framing a payload gave is the payload (R117). -/
theorem unframeFrom_scrambled {cfg : Config} {alen : Nat} {msg p : List Byte}
    (h : scrambleFrom cfg alen (msg.map rev8) = .ok p) : unframeFrom cfg alen 0 p = .ok msg :=
  unframeFrom_eq_ok_iff.2 ⟨msg.map rev8, scrambleFrom_involutive h, by simp [Function.comp_def]⟩

theorem romS_eq_ok_iff {cfg : Config} {i : Nat} {x : Byte} : romS cfg i = .ok x ↔ cfg.scramble[i]? = some x := by
  unfold romS
  cases cfg.scramble[i]? <;> simp

theorem romX_eq_ok_iff {cfg : Config} {i : Nat} {x : Word} : romX cfg i = .ok x ↔ cfg.xorout[i]? = some x := by
  unfold romX
  cases cfg.xorout[i]? <;> simp

/-- Byte `i` of a scrambled run, with the table entry as the statements name it. -/
theorem scrambleFrom_byte {cfg : Config} {k : Nat} {l r : List Byte} (h : scrambleFrom cfg k l = .ok r) {i : Nat} {b : Byte}
    (hb : l[i]? = some b) : ∃ x, cfg.scramble[k + i]? = some x ∧ r[i]? = some (b ^^^ x) := by
  obtain ⟨x, hx, hr⟩ := scrambleFrom_getElem cfg h hb
  exact ⟨x, romS_eq_ok_iff.1 hx, hr⟩

/-- Byte `i` of a de-framed run: XORed with its entry, then reversed. -/
theorem unframeFrom_byte {cfg : Config} {alen : Nat} {l r : List Byte} (h : unframeFrom cfg alen 0 l = .ok r) {i : Nat}
    {b : Byte} (hb : l[i]? = some b) : ∃ x, cfg.scramble[alen + i]? = some x ∧ r[i]? = some (rev8 (b ^^^ x)) := by
  obtain ⟨p, hp, rfl⟩ := unframeFrom_eq_ok_iff.1 h
  obtain ⟨x, hx, hr⟩ := scrambleFrom_byte hp hb
  exact ⟨x, hx, by simp [hr]⟩

/-- De-framing undoes the framing of one payload byte. -/
theorem unframe_scrambled {cfg : Config} {alen i : Nat} {b x : Byte} (hx : cfg.scramble[alen + i]? = some x) :
    unframe cfg alen i (rev8 b ^^^ x) = .ok b := by
  simp [unframe, romS_eq_ok_iff.2 hx]

/-! ### The bytes of a frame (R105, R106) -/

/-- The fields of a frame whose address has `alen` bytes: what stands before the address, the address, the payload, and behind
it nothing or the CRC of both, high byte first (R105, R106). -/
structure FrameFields (cfg : Config) (alen : Nat) (tx msg f : List Byte) (crcOn : Bool) (a p t : List Byte) : Prop where
  parts : f = frameLead cfg alen ++ (a ++ (p ++ t))
  address_length : a.length = alen
  payload_length : p.length = msg.length
  address : scrambleFrom cfg 0 tx.reverse = .ok a
  payload : scrambleFrom cfg alen (msg.map rev8) = .ok p
  crc : crcOn = true → ∃ x, cfg.xorout[alen - alenMin + msg.length]? = some x ∧
    t = [(crc16 crcInit (a ++ p) ^^^ x).extractLsb' 8 8, (crc16 crcInit (a ++ p) ^^^ x).extractLsb' 0 8]

/-- A frame that is built has such fields. -/
theorem frame_fields {cfg : Config} {alen : Nat} {tx msg f : List Byte} {crcOn : Bool} (ht : tx.length = alen)
    (h : frame cfg alen tx msg crcOn = .ok f) : ∃ a p t, FrameFields cfg alen tx msg f crcOn a p t := by
  obtain ⟨a, p, ha, hp, parts⟩ := frame_parts h
  have la : a.length = alen := by simpa [ht] using scrambleFrom_length cfg ha
  have lp : p.length = msg.length := by simpa using scrambleFrom_length cfg hp
  obtain ⟨rfl, rfl⟩ | ⟨rfl, x, hx, rfl⟩ := parts
  · exact ⟨a, p, [], by simp, la, lp, ha, hp, nofun⟩
  · exact ⟨a, p, _, by simp, la, lp, ha, hp, fun _ => ⟨x, romX_eq_ok_iff.1 hx, rfl⟩⟩

namespace FrameFields

variable {cfg : Config} {alen : Nat} {tx msg f a p t : List Byte} {crcOn : Bool}

/-- Behind the byte that stands before a short address: the address, the payload and the CRC. -/
theorem drop_lead (h : FrameFields cfg alen tx msg f crcOn a p t) : f.drop (leadLength alen) = a ++ (p ++ t) := by
  rw [h.parts, ← frameLead_length cfg, List.drop_left]

/-- Behind the address: the payload and the CRC. -/
theorem drop_address (h : FrameFields cfg alen tx msg f crcOn a p t) : f.drop (leadLength alen + alen) = p ++ t := by
  rw [← List.drop_drop, h.drop_lead, List.drop_left' h.address_length]

/-- Behind the payload: the CRC. -/
theorem drop_payload (h : FrameFields cfg alen tx msg f crcOn a p t) :
    f.drop (leadLength alen + alen + msg.length) = t := by
  rw [← List.drop_drop, h.drop_address, List.drop_left' h.payload_length]

/-- The bytes the CRC covers. -/
theorem covered (h : FrameFields cfg alen tx msg f crcOn a p t) :
    (f.drop (leadLength alen)).take (alen + msg.length) = a ++ p := by
  rw [h.drop_lead, ← List.append_assoc]
  exact List.take_left' (by simp [h.address_length, h.payload_length])

theorem take_payload (h : FrameFields cfg alen tx msg f crcOn a p t) :
    (f.drop (leadLength alen + alen)).take msg.length = p := by
  rw [h.drop_address, List.take_left' h.payload_length]

/-- Byte `i` of the address field: the address from its end, XORed with entry `i`. -/
theorem address_byte (h : FrameFields cfg alen tx msg f crcOn a p t) (ht : tx.length = alen) {i : Nat} (hi : i < alen) :
    ∃ b x, tx[alen - 1 - i]? = some b ∧ cfg.scramble[i]? = some x ∧ f[leadLength alen + i]? = some (b ^^^ x) := by
  obtain ⟨b, hb⟩ : ∃ b, tx[alen - 1 - i]? = some b := ⟨_, List.getElem?_eq_getElem (by omega)⟩
  have reversed : tx.reverse[i]? = some b := by rw [List.getElem?_reverse (by omega), ht, hb]
  obtain ⟨x, hx, ha⟩ := scrambleFrom_byte h.address reversed
  refine ⟨b, x, hb, by simpa using hx, ?_⟩
  rw [← List.getElem?_drop, h.drop_lead, List.getElem?_append_left (h.address_length.symm ▸ hi), ha]

/-- Byte `i` of the payload field: the reversed payload byte, XORed with entry `alen + i`. -/
theorem payload_byte (h : FrameFields cfg alen tx msg f crcOn a p t) {i : Nat} (hi : i < msg.length) :
    ∃ b x, msg[i]? = some b ∧ cfg.scramble[alen + i]? = some x ∧
      f[leadLength alen + alen + i]? = some (rev8 b ^^^ x) := by
  obtain ⟨b, hb⟩ : ∃ b, msg[i]? = some b := ⟨_, List.getElem?_eq_getElem hi⟩
  obtain ⟨x, hx, hp⟩ := scrambleFrom_byte h.payload (i := i) (b := rev8 b) (by simp [hb])
  refine ⟨b, x, hb, hx, ?_⟩
  rw [← List.getElem?_drop, h.drop_address, List.getElem?_append_left (h.payload_length.symm ▸ hi), hp]

end FrameFields

/-- Settles O15: each clause reads one field of the frame. -/
theorem frameLayout : Obligations.FrameLayout := by
  intro cfg alen tx msg f crcOn _ _ ht h
  obtain ⟨a, p, t, fields⟩ := frame_fields ht h
  refine ⟨frame_length ht h, fun short => ?_, fun i hi => fields.address_byte ht hi, fun i hi => fields.payload_byte hi,
    fun on => ?_⟩
  · simp [fields.parts, frameLead, short]
  · obtain ⟨x, hx, ht⟩ := fields.crc on
    refine ⟨x, hx, ?_⟩
    rintro c rfl
    exact fields.drop_payload.trans (fields.covered ▸ ht)

/-! ### The checks of WRITE_PAYLOAD (R113) -/

/-- A transmit address reads when each of its bytes is written. -/
theorem State.txBytes_isSome {s : State} {n : Nat} (h : ∀ i, i < n → ∃ b, s.txAddr[i]? = some (some b)) :
    ∃ tx, s.txBytes n = some tx := by
  choose b hb using h
  exact ⟨List.ofFn fun i : Fin n => b i i.isLt,
    State.txBytes_written (by simp) fun i hi => ⟨b i hi, by simp [hi], hb i hi⟩⟩

/-- The fifth check passes when the fourth does: a frame of at most 31 bytes reads no entry above 34. -/
theorem scramble_in_of_fits {alen plen : Nat} {crcOn : Bool} (fits : frameLength alen plen crcOn ≤ maxData) :
    alen + plen ≤ nScramble - 1 := by
  unfold frameLength maxData at fits
  unfold nScramble
  omega

section WriteChecks

variable {s : State} {m tx : List Byte} {a : Byte} {crcOn : Bool}

theorem writeFrame_alen_unwritten (ha : s.alen = none) : writeFrame m s = .error .unwritten := by
  simp [writeFrame, ha]

theorem writeFrame_address_unwritten (ha : s.alen = some a) (ht : s.txBytes a.toNat = none) :
    writeFrame m s = .error .unwritten := by
  simp [writeFrame, ha, ht]

theorem writeFrame_crcOn_unwritten (hc : s.crcOn = none) : writeFrame m s = .error .unwritten := by
  cases ha : s.alen with
  | none => exact writeFrame_alen_unwritten ha
  | some a =>
    cases ht : s.txBytes a.toNat with
    | none => exact writeFrame_address_unwritten ha ht
    | some tx => simp [writeFrame, ha, ht, hc]

/-- What is left to check once ALEN, the address and CRC_ON are read. -/
theorem writeFrame_written (ha : s.alen = some a) (ht : s.txBytes a.toNat = some tx) (hc : s.crcOn = some crcOn) :
    writeFrame m s =
      if maxData < frameLength a.toNat m.length crcOn then .error .frameLen
      else if crcOn = true ∧ nXorout s.config ≤ a.toNat - alenMin + m.length then .error .xoroutIndex
      else frame s.config a.toNat tx m crcOn := by
  simp only [writeFrame, ha, ht, hc]
  by_cases long : maxData < frameLength a.toNat m.length crcOn
  · rw [if_pos long, if_pos long]
  · have inside := scramble_in_of_fits (not_lt.1 long)
    rw [if_neg long, if_neg long, if_neg (by omega)]

/-- A frame whose length and XOR-out entry pass the checks is built. -/
theorem frame_of_fits (cfg : Config) (ht : tx.length = a.toNat) (fits : frameLength a.toNat m.length crcOn ≤ maxData)
    (hx : crcOn = true → a.toNat - alenMin + m.length < nXorout cfg) : ∃ f, frame cfg a.toNat tx m crcOn = .ok f := by
  have inside := scramble_in_of_fits fits
  unfold nScramble at inside
  exact frame_inside cfg (by omega) (by omega) hx

/-- The fifth check is never the first to fail. -/
theorem writeFrame_ne_scrambleIndex (m : List Byte) (s : State) : writeFrame m s ≠ .error .scrambleIndex := by
  cases ha : s.alen with
  | none => simp [writeFrame_alen_unwritten ha]
  | some a =>
    cases ht : s.txBytes a.toNat with
    | none => simp [writeFrame_address_unwritten ha ht]
    | some tx =>
      cases hc : s.crcOn with
      | none => simp [writeFrame_crcOn_unwritten hc]
      | some crcOn =>
        rw [writeFrame_written ha ht hc]
        split_ifs with long noEntry
        · simp
        · simp
        · obtain ⟨f, hf⟩ := frame_of_fits s.config (State.txBytes_length ht) (not_lt.1 long)
            fun on => not_le.1 fun le => noEntry ⟨on, le⟩
          simp [hf]

end WriteChecks

theorem exec_writePayload_ok {s : State} {m f : List Byte} (hs : s.faultCode = 0#8) (hf : writeFrame m s = .ok f) :
    exec (.writePayload m) s = .next (s.exchange wpayloadOpcode f 0) :=
  (State.issue_running hs).trans (by rw [writePayload, hf])

theorem exec_writePayload_error {s : State} {m : List Byte} {e : BlockFault} (hs : s.faultCode = 0#8)
    (he : writeFrame m s = .error e) : exec (.writePayload m) s = .next (s.raise e 0x04#8) :=
  (State.issue_running hs).trans (by rw [writePayload, he]; rfl)

theorem exec_writePayload_ne_scrambleIndex {s t : State} {m : List Byte} (hs : s.faultCode = 0#8)
    (h : exec (.writePayload m) s = .next t) : t.faultCode ≠ 6#8 := by
  cases hw : writeFrame m s with
  | ok f =>
    obtain rfl := Host.Outcome.next.inj ((exec_writePayload_ok hs hw).symm.trans h)
    simp [hs]
  | error e =>
    obtain rfl := Host.Outcome.next.inj ((exec_writePayload_error hs hw).symm.trans h)
    cases e
    case scrambleIndex => exact absurd hw (writeFrame_ne_scrambleIndex m s)
    all_goals exact ne_of_beq_false rfl

/-- Settles O23: each clause is what the first failing check answers. -/
theorem writePayloadFaults : Obligations.WritePayloadFaults := by
  intro s m hs
  refine ⟨fun ha => ?_, fun a i ha hi unwritten => ?_, fun hc => ?_, fun a crcOn ha written hc => ?_, fun t ht => ?_⟩
  · exact exec_writePayload_error hs (writeFrame_alen_unwritten ha)
  · exact exec_writePayload_error hs (writeFrame_address_unwritten ha (State.txBytes_unwritten hi unwritten))
  · exact exec_writePayload_error hs (writeFrame_crcOn_unwritten hc)
  · obtain ⟨tx, ht⟩ := State.txBytes_isSome written
    have checks := writeFrame_written (m := m) ha ht hc
    exact ⟨fun long => exec_writePayload_error hs (checks.trans (if_pos long)), fun fits on noEntry =>
      exec_writePayload_error hs (checks.trans ((if_neg (not_lt.2 fits)).trans (if_pos ⟨on, noEntry⟩)))⟩
  · exact exec_writePayload_ne_scrambleIndex hs ht

/-- Settles O22: with the checks passed the frame is built, and it is what is sent. -/
theorem writePayloadSends : Obligations.WritePayloadSends := by
  refine ⟨spelledCounted (c := .writePayload) fun _ => rfl, fun s m tx alen crcOn hs ready => ?_⟩
  obtain ⟨⟨a, ha, rfl⟩, ht, written, hc, fits, -, entry⟩ := ready
  obtain ⟨f, hf⟩ := frame_of_fits s.config ht fits entry
  have checks := writeFrame_written (m := m) ha (State.txBytes_written ht written) hc
  rw [if_neg (not_lt.2 fits), if_neg fun h => not_le.2 (entry h.1) h.2, hf] at checks
  exact ⟨f, hf, exec_writePayload_ok hs checks⟩

/-! ### The checks of READ_PAYLOAD (R114) -/

section ReadChecks

variable {s : State} {len a : Byte}

theorem readMessage_unwritten (ha : s.alen = none) : readMessage len s = .error .unwritten := by
  simp [readMessage, ha]

theorem readMessage_frameLen (ha : s.alen = some a) (long : maxData < len.toNat) :
    readMessage len s = .error .frameLen := by
  simp [readMessage, ha, long]

theorem readMessage_scrambleIndex (ha : s.alen = some a) (fits : len.toNat ≤ maxData) (pos : 0 < len.toNat)
    (outside : nScramble - 1 < a.toNat + len.toNat - 1) : readMessage len s = .error .scrambleIndex := by
  simp only [readMessage, ha]
  rw [if_neg (not_lt.2 fits), if_pos ⟨pos, outside⟩]

theorem readMessage_checked (ha : s.alen = some a) (fits : len.toNat ≤ maxData)
    (inside : 0 < len.toNat → a.toNat + len.toNat - 1 ≤ nScramble - 1) :
    readMessage len s = unframeFrom s.config a.toNat 0 (s.drawnBytes len.toNat) := by
  simp only [readMessage, ha]
  rw [if_neg (not_lt.2 fits), if_neg fun h => not_lt.2 (inside h.1) h.2]

/-- When the checks pass, the drawn bytes can be de-framed. -/
theorem readMessage_ok (ha : s.alen = some a) (fits : len.toNat ≤ maxData)
    (inside : 0 < len.toNat → a.toNat + len.toNat - 1 ≤ nScramble - 1) :
    ∃ l, readMessage len s = .ok l ∧ unframeFrom s.config a.toNat 0 (s.drawnBytes len.toNat) = .ok l := by
  unfold nScramble at inside
  obtain ⟨l, hl, -⟩ := unframeFrom_inside s.config a.toNat (s.drawnBytes len.toNat) 0 (by simp; omega)
  exact ⟨l, (readMessage_checked ha fits inside).trans hl, hl⟩

end ReadChecks

theorem exec_readPayload_ok {s : State} {len : Byte} {l : List Byte} (hs : s.faultCode = 0#8)
    (hl : readMessage len s = .ok l) :
    exec (.readPayload len) s = .next (State.exchange { s with rxMsg := some l } rpayloadOpcode [] len.toNat) :=
  (State.issue_running hs).trans (by rw [readPayload, hl])

theorem exec_readPayload_error {s : State} {len : Byte} {e : BlockFault} (hs : s.faultCode = 0#8)
    (he : readMessage len s = .error e) : exec (.readPayload len) s = .next (s.raise e 0x05#8) :=
  (State.issue_running hs).trans (by rw [readPayload, he]; rfl)

/-- Settles O25: each clause is what the first failing check answers. -/
theorem readPayloadFaults : Obligations.ReadPayloadFaults := fun _ _ hs =>
  ⟨fun ha => exec_readPayload_error hs (readMessage_unwritten ha), fun _ ha =>
    ⟨fun long => exec_readPayload_error hs (readMessage_frameLen ha long),
      fun pos fits outside => exec_readPayload_error hs (readMessage_scrambleIndex ha fits pos outside)⟩⟩

/-- Settles O16: the payload field is the scrambled payload, and scrambling it again gives the payload back. -/
theorem roundTrip : Obligations.RoundTrip := by
  intro cfg alen tx msg crcOn _ _ ht fits
  refine ⟨fun entry => frame_inside cfg (by omega) (fun _ => fits) entry, fun f hf => ⟨fun i hi => ?_, ?_⟩⟩
  · obtain ⟨a, p, t, fields⟩ := frame_fields ht hf
    obtain ⟨b, x, hb, hx, hr⟩ := fields.payload_byte hi
    exact ⟨_, b, hr, hb, unframe_scrambled hx⟩
  · rintro s a hs rfl ha rfl short
    obtain ⟨_, p, t, fields⟩ := frame_fields ht hf
    have len_eq : (BitVec.ofNat 8 msg.length).toNat = msg.length := by simp; omega
    obtain ⟨l, hl, unframed⟩ := readMessage_ok (len := BitVec.ofNat 8 msg.length) ha (len_eq.trans_le short)
      (by rw [len_eq]; unfold nScramble; omega)
    refine ⟨_, _, exec_readPayload_ok hs hl, rfl, fun clocked => ?_⟩
    have drawn : s.drawnBytes (BitVec.ofNat 8 msg.length).toNat = p := clocked.trans fields.take_payload
    rw [drawn, unframeFrom_scrambled fields.payload] at unframed
    exact congrArg some (Except.ok.inj unframed).symm

end Sys2Proof.Machine

namespace Sys2Proof.Framer

open Sys2Proof.Machine

/-! ### The framer's other commands (R110 to R112, R114 to R116) -/

/-- Settles O18: the number of bytes decides between the exchange and ADDR_LEN. -/
theorem setTxAddr : Obligations.SetTxAddr := by
  refine ⟨spelledCounted (c := .setTxAddr) fun _ => rfl, fun s a hs => ?_⟩
  rw [← addrLenOk_iff]
  exact ⟨fun ok => (State.issue_running hs).trans (congrArg _ (if_pos ok)),
    fun bad => (State.issue_running hs).trans (congrArg _ (if_neg bad))⟩

/-- Settles O19: the number of bytes decides between the exchange and ADDR_LEN. -/
theorem setRxAddr : Obligations.SetRxAddr := by
  refine ⟨spelledCounted (c := .setRxAddr) fun _ => rfl, fun s a hs => ?_⟩
  rw [← addrLenOk_iff]
  exact ⟨fun ok => (State.issue_running hs).trans (congrArg _ (if_pos ok)),
    fun bad => (State.issue_running hs).trans (congrArg _ (if_neg bad))⟩

/-- Settles O20: CONFIGURE checks nothing. -/
theorem configure : Obligations.Configure := by
  refine ⟨spelledByte (c := .configure) fun _ => rfl, fun s b hs => ?_⟩
  have enabled : crcEnabled s.config b = decide (b &&& s.config.crcEnBit ≠ 0#8) :=
    Bool.eq_iff_iff.2 ((crcEnabled_iff s.config b).trans decide_eq_true_iff.symm)
  rw [← enabled]
  exact State.issue_running hs

/-- Settles O24: the drawn bytes de-framed are the message, byte by byte. -/
theorem readPayload : Obligations.ReadPayload := by
  refine ⟨spelledByte (c := .readPayload) fun _ => rfl, fun s len a hs ha fits inside => ?_⟩
  obtain ⟨msg, read, unframed⟩ := readMessage_ok ha fits inside
  obtain ⟨length_eq, -⟩ := readMessage_length read
  refine ⟨msg, length_eq, fun i hi => ?_, exec_readPayload_ok hs read⟩
  exact unframeFrom_byte unframed (by simp [State.drawnBytes, hi])

/-- Settles O26: CRC16_RAW checks nothing. -/
theorem crc16Raw : Obligations.Crc16Raw :=
  ⟨spelledCounted (c := .crc16Raw) fun _ => rfl, fun _ _ => State.issue_running⟩

/-- Settles O27: BITREV8 checks nothing. -/
theorem bitrev8 : Obligations.Bitrev8 :=
  ⟨spelledByte (c := .bitrev8) fun _ => rfl, fun _ _ => State.issue_running⟩

end Sys2Proof.Framer
end

section
/-! PROOFS. The statements of 41_quantize.md: the clamp of a channel (R140), the conversions of a clamped channel (R141 to
R144, R146), and the flag, which reads the channel as it is (R145). -/

namespace Sys2Proof.Machine

/-! ### How a quantize command is spelled (R71, R72) -/

theorem spelledChannel {c : Cmd} {mk : Word → Instr}
    (hc : ∀ rest, c.decodeOperands rest = (channelOperand rest).map mk) : SpelledChannel c.byte mk := by
  intro rest
  rw [decode, decodeCommand_byte, hc]
  rcases rest with _ | ⟨lo, _ | ⟨hi, _ | ⟨b, bs⟩⟩⟩ <;> rfl

/-! ### The clamp (R140) -/

theorem axisOf_eq (ch : Word) : axisOf ch = min (max ch.toInt (-10000)) 10000 := rfl

theorem axisOf_bounds (ch : Word) : -10000 ≤ axisOf ch ∧ axisOf ch ≤ 10000 := by
  rw [axisOf_eq]
  omega

/-- The clamp keeps the sign. -/
theorem axisOf_neg_iff (ch : Word) : axisOf ch < 0 ↔ ch.toInt < 0 := by
  rw [axisOf_eq]
  omega

/-- The axis of a channel that holds an axis value is that value. -/
theorem axisOf_eq_of_toInt {ch ch' : Word} (h : ch'.toInt = axisOf ch) : axisOf ch' = axisOf ch := by
  have bounds := axisOf_bounds ch
  rw [axisOf_eq ch', h]
  omega

/-- Settles O28: the five conversions read the operand through the axis alone. -/
theorem axisClamp : Obligations.AxisClamp := by
  intro ch
  have clamp := axisOf_eq ch
  refine ⟨⟨clamp, by omega, by omega, by omega⟩, fun ch' s hch => ?_⟩
  have same : axisOf ch = axisOf ch' := (axisOf_eq_of_toInt hch).symm
  simp only [exec, execQCx10, execQSymax, execQSymaxThr, execQYd717, execQMode, same, and_self]

/-! ### Scaling an axis value (R10, R141 to R144) -/

/-- A scaled axis value is in the range of its scale: division truncates toward zero, and is monotone (R10). -/
theorem tdiv_axis_bounds {c k : Int} (hk : 0 ≤ k) (lo : -10000 ≤ c) (hi : c ≤ 10000) :
    -k ≤ Int.tdiv (c * k) 10000 ∧ Int.tdiv (c * k) 10000 ≤ k := by
  have low := Int.tdiv_le_tdiv (c := 10000) (by decide) (mul_le_mul_of_nonneg_right lo hk)
  have high := Int.tdiv_le_tdiv (c := 10000) (by decide) (mul_le_mul_of_nonneg_right hi hk)
  rw [neg_mul, Int.neg_tdiv, Int.mul_tdiv_cancel_left _ (by decide)] at low
  rw [Int.mul_tdiv_cancel_left _ (by decide)] at high
  exact ⟨low, high⟩

section Conversions

variable {c : Int}

/-- Nothing wraps in the conversion to 16 bits (R141). -/
theorem cx10Of_toNat (lo : -10000 ≤ c) (hi : c ≤ 10000) :
    ((cx10Of c).toNat : Int) = Int.tdiv (c * 500) 10000 + 1500 ∧
      1000 ≤ (cx10Of c).toNat ∧ (cx10Of c).toNat ≤ 2000 := by
  obtain ⟨low, high⟩ := tdiv_axis_bounds (k := 500) (by decide) lo hi
  have value : ((cx10Of c).toNat : Int) = Int.tdiv (c * 500) 10000 + 1500 := by
    simp only [cx10Of, BitVec.toNat_ofInt, cx10Span, cx10Center, chanMax]
    omega
  omega

/-- The magnitude of Q_SYMAX as a number (R142). -/
theorem symaxMagnitude (lo : -10000 ≤ c) (hi : c ≤ 10000) :
    ∃ m : Nat, m ≤ 127 ∧ (m : Int) = Int.tdiv ((c.natAbs : Int) * 127) 10000 := by
  obtain ⟨-, high⟩ := tdiv_axis_bounds (c := c.natAbs) (k := 127) (by decide) (by omega) (by omega)
  have nonneg : 0 ≤ Int.tdiv ((c.natAbs : Int) * 127) 10000 := Int.tdiv_nonneg (by omega) (by decide)
  exact ⟨_, by omega, Int.toNat_of_nonneg nonneg⟩

/-- The sign bit stands above the magnitude (R142). -/
theorem symaxOf_toNat {m : Nat} (small : m ≤ 127) (hm : (m : Int) = Int.tdiv ((c.natAbs : Int) * 127) 10000) :
    (symaxOf c).toNat = (if c < 0 then 128 else 0) + m := by
  have above : 128 ||| m = 128 + m := (Nat.two_pow_add_eq_or_of_lt (i := 7) (by omega) 1).symm
  have byte : m % 256 = m := Nat.mod_eq_of_lt (by omega)
  rw [symaxOf, symaxMag, chanMax, ← hm, BitVec.ofInt_natCast]
  split_ifs
  · simp [byte, above]
  · simp [byte]

/-- The unsigned position of Q_YD717 as a number (R144). -/
theorem yd717Position (lo : -10000 ≤ c) (hi : c ≤ 10000) :
    ∃ t : Nat, 1 ≤ t ∧ t ≤ 511 ∧ (t : Int) = Int.tdiv (c * 255) 10000 + 256 := by
  obtain ⟨low, high⟩ := tdiv_axis_bounds (k := 255) (by decide) lo hi
  exact ⟨(Int.tdiv (c * 255) 10000 + 256).toNat, by omega, by omega, by omega⟩

/-- The half of a position is a byte (R144). -/
theorem yd717Of_toNat {t : Nat} (small : t ≤ 511) (ht : (t : Int) = Int.tdiv (c * 255) 10000 + 256) :
    (yd717Of c).toNat = t / 2 := by
  have half : yd717Of c = BitVec.ofNat 8 (t / 2) := by
    rw [yd717Of, yd717Scale, chanMax, yd717Offset, ← ht, Int.shiftRight_eq_div_pow]
    exact BitVec.ofInt_natCast 8 (t / 2)
  rw [half, BitVec.toNat_ofNat]
  omega

end Conversions

/-! ### The quantize commands (R141 to R146) -/

theorem State.setResByte_eq (s : State) (b : Byte) :
    s.setResByte b = { s with res := some (BitVec.ofNat 16 b.toNat) } := by
  rw [BitVec.ofNat_toNat]
  rfl

/-- Settles O29: the axis is in the range where nothing wraps. -/
theorem qCx10 : Obligations.QCx10 := by
  refine ⟨spelledChannel (c := .qCx10) fun _ => rfl, fun s ch hs => ?_⟩
  obtain ⟨lo, hi⟩ := axisOf_bounds ch
  exact ⟨_, State.issue_running hs, cx10Of_toNat lo hi⟩

/-- Settles O30: the sign of the axis is that of the operand. -/
theorem qSymax : Obligations.QSymax := by
  refine ⟨spelledChannel (c := .qSymax) fun _ => rfl, fun s ch hs => ?_⟩
  obtain ⟨lo, hi⟩ := axisOf_bounds ch
  obtain ⟨m, small, hm⟩ := symaxMagnitude lo hi
  refine ⟨m, small, hm, (State.issue_running hs).trans ?_⟩
  simp only [State.setResByte_eq, symaxOf_toNat small hm, axisOf_neg_iff]

/-- Settles O31: the fold is applied to the axis. -/
theorem qSymaxThr : Obligations.QSymaxThr :=
  ⟨spelledChannel (c := .qSymaxThr) fun _ => rfl, fun _ _ => State.issue_running⟩

/-- Settles O32: the result is the half of the position. -/
theorem qYd717 : Obligations.QYd717 := by
  refine ⟨spelledChannel (c := .qYd717) fun _ => rfl, fun s ch hs => ?_⟩
  obtain ⟨lo, hi⟩ := axisOf_bounds ch
  obtain ⟨t, pos, small, ht⟩ := yd717Position lo hi
  refine ⟨t, pos, small, ht, (State.issue_running hs).trans ?_⟩
  rw [State.setResByte_eq, yd717Of_toNat small ht]

/-- Settles O33: the operand is read without the clamp. -/
theorem qFlag : Obligations.QFlag :=
  ⟨spelledChannel (c := .qFlag) fun _ => rfl, fun _ _ => State.issue_running⟩

/-- Settles O34: the selection is applied to the axis. -/
theorem qMode : Obligations.QMode :=
  ⟨spelledChannel (c := .qMode) fun _ => rfl, fun _ _ => State.issue_running⟩

/-- Settles O36: each conversion is evaluated. -/
theorem quantizerExamples : Obligations.QuantizerExamples := by
  unfold Obligations.QuantizerExamples
  decide

end Sys2Proof.Machine
end

section
/-! PROOFS. The statements of 42_checksum.md: the two folds (R150), the three trailer commands (R151 to R153) and the sum
of a frame with its trailer (R154). -/

namespace Sys2Proof.Machine

/-! ### The folds (R150) -/

theorem xor8_append_singleton (d : List Byte) (b : Byte) : xor8 (d ++ [b]) = xor8 d ^^^ b := by
  simp only [xor8, List.foldl_append, List.foldl_cons, List.foldl_nil]

theorem sum8_toNat (d : List Byte) : (sum8 d).toNat = (d.map BitVec.toNat).sum % 256 :=
  BitVec.toNat_ofNat _ 8

theorem sum8_append_singleton (d : List Byte) (b : Byte) : sum8 (d ++ [b]) = sum8 d + b := by
  apply BitVec.eq_of_toNat_eq
  simp only [BitVec.toNat_add, sum8_toNat, List.map_append, List.map_singleton, List.sum_append, List.sum_singleton]
  omega

/-- An 8-bit accumulator agrees with the total taken mod 256 at the end. -/
theorem sum8_eq_foldl (d : List Byte) : sum8 d = d.foldl (· + ·) 0#8 := by
  induction d using List.reverseRecOn with
  | nil => rfl
  | append_singleton d b ih => rw [sum8_append_singleton, ih, List.foldl_append, List.foldl_cons, List.foldl_nil]

/-- Settles O37: both folds take one byte more at the end. -/
theorem folds : Obligations.Folds :=
  ⟨rfl, rfl, xor8_append_singleton, sum8_toNat, sum8_eq_foldl⟩

/-! ### The results as numbers (R151 to R153) -/

theorem symaxXorOf_toNat (cfg : Config) (d : List Byte) :
    (symaxXorOf cfg d).toNat = ((xor8 d).toNat + cfg.symaxBiasXor.toNat) % 256 :=
  BitVec.toNat_add _ _

/-- The bias may be added before the total is reduced. -/
theorem symaxAddOf_toNat (cfg : Config) (d : List Byte) :
    (symaxAddOf cfg d).toNat = ((d.map BitVec.toNat).sum + cfg.symaxBiasAdd.toNat) % 256 := by
  rw [symaxAddOf, BitVec.toNat_add, sum8_toNat]
  exact Nat.mod_add_mod _ _ _

theorem yd717CsumOf_toNat (d : List Byte) : (yd717CsumOf d).toNat = 255 - (d.map BitVec.toNat).sum % 256 := by
  rw [yd717CsumOf, BitVec.toNat_not, sum8_toNat]

/-- A byte and its complement sum to 0xFF (R154). -/
theorem sum8_append_yd717CsumOf (d : List Byte) : sum8 (d ++ [yd717CsumOf d]) = 0xFF#8 := by
  rw [sum8_append_singleton, yd717CsumOf, BitVec.add_not_self]
  rfl

/-! ### The trailer commands (R151 to R154) -/

theorem exec_ckYd717_frame {s : State} {d : List Byte} (hs : s.faultCode = 0#8) (frame : d.length = 8) :
    exec (.ckYd717 d) s = .next (s.setResByte (yd717CsumOf d)) :=
  (State.issue_running hs).trans (congrArg _ (if_pos frame))

theorem exec_ckYd717_csumLen {s : State} {d : List Byte} (hs : s.faultCode = 0#8) (other : d.length ≠ 8) :
    exec (.ckYd717 d) s = .next (s.raise .csumLen Cmd.ckYd717.byte) :=
  (State.issue_running hs).trans (congrArg _ (if_neg other))

/-- Settles O38: the bias is added to the fold as a byte. -/
theorem ckSymaxXor : Obligations.CkSymaxXor := by
  refine ⟨spelledCounted (c := .ckSymaxXor) fun _ => rfl, fun s d hs => (State.issue_running hs).trans ?_⟩
  rw [State.setResByte_eq, symaxXorOf_toNat, xor8]

/-- Settles O39: the bias is added to the total, reduced or not. -/
theorem ckSymaxAdd : Obligations.CkSymaxAdd := by
  refine ⟨spelledCounted (c := .ckSymaxAdd) fun _ => rfl, fun s d hs => (State.issue_running hs).trans ?_⟩
  rw [State.setResByte_eq, symaxAddOf_toNat]

/-- Settles O40: the number of bytes decides between the complement of the total and CSUM_LEN. -/
theorem ckYd717 : Obligations.CkYd717 := by
  refine ⟨spelledCounted (c := .ckYd717) fun _ => rfl, fun s d hs => ⟨fun frame => ?_, exec_ckYd717_csumLen hs⟩⟩
  rw [exec_ckYd717_frame hs frame, State.setResByte_eq, yd717CsumOf_toNat]

/-- Settles O41: the low byte of RES is the complement of the total. -/
theorem yd717FrameSum : Obligations.Yd717FrameSum := by
  intro s d hs frame
  refine ⟨_, _, exec_ckYd717_frame hs frame, State.setResByte_res s _, ?_⟩
  rw [BitVec.setWidth_setWidth_of_le _ (by decide), BitVec.setWidth_eq]
  exact sum8_append_yd717CsumOf d

end Sys2Proof.Machine
end

section
/-! PROOFS. The statements of 43_bus.md: the register number in a write opcode (R172), the eight bus opcodes (R172 to R178), the
exchange of each command (R179), and the draws of a step (R171, R240). -/

namespace Sys2Proof.Machine

/-! ### The register number in a write opcode (R77, R172) -/

theorem wregOpcode_setWidth_five (r : Byte) : (wregOpcode r).setWidth 5 = r.setWidth 5 := by
  have clear : (0x20#8).setWidth 5 = 0#5 := rfl
  have mask : (0x1F#8).setWidth 5 = BitVec.allOnes 5 := rfl
  rw [wregOpcode, BitVec.setWidth_or, BitVec.setWidth_and, clear, mask, BitVec.allOnes_and, BitVec.zero_or]

theorem wregOpcode_and_mask (r : Byte) : wregOpcode (r &&& 0x1F#8) = wregOpcode r := by
  rw [wregOpcode, BitVec.and_comm r, ← BitVec.and_assoc, BitVec.and_self, wregOpcode]

/-- Settles O44: the mask drops the bits above the number, and 001 takes their place. -/
theorem wregLowBits : Obligations.WregLowBits := fun r =>
  ⟨wregOpcode_pattern r, wregOpcode_setWidth_five r, (wregOpcode_and_mask r).symm⟩

/-- A number of five bits passes the mask whole. -/
theorem wregOpcode_register_number (r : BitVec 5) : wregOpcode (r.setWidth 8) = 0x20#8 ||| r.setWidth 8 := by
  revert r
  decide

/-! ### The bus opcodes (R172 to R178) -/

/-- Settles O42: each emitted opcode is its exchange; a write clocks in nothing after the status byte. -/
theorem busEmitted : Obligations.BusEmitted := by
  refine fun s hs => ⟨fun r out => ?_, fun out => State.issue_running hs, fun nin => State.issue_running hs⟩
  rw [← wregOpcode_register_number]
  exact State.issue_running hs

/-- An instruction whose effect is the state it found answers that state, refused or not. -/
theorem State.issue_self (s : State) : s.issue s = .next s := congrArg _ (ite_self s)

/-- Settles O43: the five opcodes issue the state unchanged. -/
theorem busNeverEmitted : Obligations.BusNeverEmitted := fun s =>
  ⟨fun _ _ => s.issue_self, s.issue_self, s.issue_self, fun _ => s.issue_self, s.issue_self⟩

/-! ### The exchange of each command (R179) -/

/-- Settles O45: along what an instruction can do; a result comes of an opcode from 0x10 on, and the commands with an
exchange stand below. -/
theorem commandExchanges : Obligations.CommandExchanges := by
  intro i s t bytes spelled hs hx noFault
  cases exec_effect hs hx with
  | none bus => exact absurd spelled (bus bytes)
  | fault f => exact absurd noFault f.code_ne_zero
  | result w op rest hi from10 =>
    refine ⟨[], (List.append_nil _).symm, ?_⟩
    cases i
    case setTxAddr | setRxAddr | configure | writePayload | readPayload => cases hi; exact absurd from10 (by decide)
    all_goals rfl
  | txAddr _ hi | rxAddr _ hi | config _ hi | write _ _ hi | read _ _ hi => subst hi; exact ⟨[_], rfl, rfl⟩
  | busWreg _ _ hi | busWpayload _ hi | busRpayload _ hi => subst hi; cases spelled

/-! ### The draws of a step (R171, R240) -/

/-- Between the two states the next `n` answers were drawn and logged, in order (log entry 4). -/
structure State.Draws (s t : State) (n : Nat) : Prop where
  logged : t.drawsLogged = s.drawsLogged ++ (List.range n).map s.nextDraw
  counted : t.drawCount = s.drawCount + n
  taken : t.responses = s.responses.drop n

/-- The status byte is the first answer drawn, the bytes clocked in are those after it. -/
theorem State.nextDraw_cons_drawnBytes (s : State) (n : Nat) :
    s.nextDraw 0 :: s.drawnBytes n = (List.range (n + 1)).map s.nextDraw := by
  rw [List.range_succ_eq_map, List.map_cons, List.map_map]
  rfl

theorem State.exchange_draws (s : State) (op : Byte) (out : List Byte) (nin : Nat) :
    s.Draws (s.exchange op out nin) (nin + 1) where
  logged := by simp [State.drawsLogged, State.nextDraw_cons_drawnBytes]
  counted := rfl
  taken := rfl

theorem State.draws_zero (s : State) : s.Draws s 0 := ⟨(List.append_nil _).symm, rfl, rfl⟩

/-- What an instruction writes beside its exchange is no part of the draws. -/
theorem Effect.draws {i : Instr} {s t : State} (e : Effect i s t) : ∃ n, s.Draws t n := by
  cases e with
  | none | fault | result => exact ⟨0, s.draws_zero.logged, rfl, rfl⟩
  | txAddr | rxAddr | config | write | read | busWreg | busWpayload | busRpayload =>
    exact ⟨_, (State.exchange_draws _ _ _ _).logged, rfl, rfl⟩

/-- A step that is no reset draws through the instruction it runs, and only so. -/
theorem step_draws {s t : State} (h : step s = .next t) (noReset : ∀ p, s.port ≠ .reset :: p) : ∃ n, s.Draws t n := by
  obtain ⟨-, rfl⟩ | ⟨p, hp, -⟩ | ⟨w, p, i, -, -, hs, hx⟩ | ⟨w, p, -, -, rfl⟩ | ⟨bytes, p, f, -, -, rfl⟩ := step_cases h
  · exact ⟨0, t.draws_zero⟩
  · exact absurd hp (noReset p)
  · obtain ⟨n, logged, counted, taken⟩ := (exec_effect (s := { s with port := p }) hs hx).draws
    exact ⟨n, logged, counted, taken⟩
  · exact ⟨0, s.draws_zero.logged, rfl, rfl⟩
  · exact ⟨0, s.draws_zero.logged, rfl, rfl⟩

/-- Settles O55: the list is that of the next answers, as many as were drawn. -/
theorem drawsObserved : Obligations.DrawsObserved := by
  intro s t h noReset
  obtain ⟨n, logged, counted, taken⟩ := step_draws h noReset
  have length_eq : ((List.range n).map s.nextDraw).length = n := by simp
  refine ⟨(List.range n).map s.nextDraw, logged, ?_⟩
  rw [length_eq]
  exact ⟨counted, taken, fun k hk => by simp [hk]⟩

end Sys2Proof.Machine
end

section
/-! PROOFS. The statements of 60_exceptions.md: what taking a fault writes (R201), what a halted block does with its inputs (R202,
R203), and that no answer of the transceiver makes a fault (R205). -/

namespace Sys2Proof.Machine

/-! ### Fault entry (R201) -/

/-- Only the fault effect leaves a fault recorded where none was. -/
theorem Effect.fault_of_recorded {i : Instr} {s t : State} (e : Effect i s t) (hs : s.faultCode = 0#8)
    (recorded : t.faultCode ≠ 0#8) : ∃ f op rest, encode i = .command (op :: rest) ∧ t = s.raise f op := by
  cases e
  case fault f op rest spelled _ => exact ⟨f, op, rest, spelled, rfl⟩
  all_goals exact absurd hs recorded

/-- Settles O46: the state is the one before with a fault raised, under the command's own opcode byte. -/
theorem faultEntry : Obligations.FaultEntry := by
  intro i s t hs hx recorded
  obtain ⟨f, op, rest, spelled, rfl⟩ := (exec_effect hs hx).fault_of_recorded hs recorded
  exact ⟨rfl, f.code_le, rest, spelled⟩

/-! ### The halt (R202, R203) -/

/-- The reset input is taken from the port, and every register goes to its reset state (R230). -/
theorem step_reset {s : State} {p : List Input} (hp : s.port = .reset :: p) :
    step s = .next (State.resetBlock { s with port := p }) := by
  simp only [step, fetch, hp]

/-- The port is no register: what the host reads does not depend on it (R35). -/
theorem State.hostRead_withPort (s : State) (p : List Input) (r : HostReg) :
    ({ s with port := p } : State).hostRead r = s.hostRead r := rfl

/-- Settles O47: the halt goes before the decoding of a command and before its effect; reset is no command. -/
theorem haltRefuses : Obligations.HaltRefuses := fun s hs =>
  ⟨fun i _ _ => exec_halted i hs, fun _ p hp => ⟨step_halted hs hp, s.hostRead_withPort p⟩,
    fun _ hp => ⟨_, step_reset hp, rfl⟩⟩

/-- Settles O48: of what a step can do, a halted block waits or refuses its input. -/
theorem haltLasts : Obligations.HaltLasts := by
  refine ⟨fun s t hs noReset h => ?_, fun s w p => step_halted⟩
  obtain ⟨-, rfl⟩ | ⟨p, hp, -⟩ | ⟨w, p, i, -, -, running, -⟩ | ⟨w, p, -, -, rfl⟩ | ⟨bytes, p, f, -, running, -⟩ :=
    step_cases h
  · rfl
  · exact absurd hp (noReset p)
  · exact absurd running hs
  · rfl
  · exact absurd running hs

/-! ### The transceiver's answers (R171, R205) -/

/-- The same block before a transceiver that answers otherwise. -/
def State.withAnswers (s : State) (r : List Byte) (n : Nat) : State := { s with responses := r, drawCount := n }

/-- The two states differ at most in what the transceiver answered: in STATUS, in the bytes of RXMSG, in what the records of
BUSLOG hold, and in the answers still to come. -/
structure State.SameButAnswers (t t' : State) : Prop where
  frame : t' = { t with
    status := t'.status, rxMsg := t'.rxMsg, busLog := t'.busLog, responses := t'.responses, drawCount := t'.drawCount }
  rxMsg_valid : t'.rxMsg.isSome = t.rxMsg.isSome
  busLog_length : t'.busLog.length = t.busLog.length

section Answers

variable {s e e' : State} (r : List Byte) (n : Nat)

theorem State.sameButAnswers_withAnswers (s : State) : s.SameButAnswers (s.withAnswers r n) := ⟨rfl, rfl, rfl⟩

/-- Whatever an exchange draws goes into STATUS and one record. -/
theorem State.SameButAnswers.exchange (h : e.SameButAnswers e') (op : Byte) (out : List Byte) (nin : Nat) :
    (e.exchange op out nin).SameButAnswers (e'.exchange op out nin) where
  frame := by rw [h.frame]; rfl
  rxMsg_valid := h.rxMsg_valid
  busLog_length := by simp [h.busLog_length]

/-- The count checks of the address and checksum commands see no answer. -/
theorem State.SameButAnswers.ite {c : Prop} [Decidable c] {u u' : State} (h : e.SameButAnswers e') (hu : u.SameButAnswers u') :
    (if c then e else u).SameButAnswers (if c then e' else u') := by
  split
  · exact h
  · exact hu

theorem State.exchange_withAnswers (s : State) (op : Byte) (out : List Byte) (nin : Nat) :
    (s.exchange op out nin).SameButAnswers ((s.withAnswers r n).exchange op out nin) :=
  (s.sameButAnswers_withAnswers r n).exchange op out nin

/-- Whether a command is refused does not depend on the answers. -/
theorem State.issue_withAnswers (h : e.SameButAnswers e') :
    ∃ t t', s.issue e = .next t ∧ (s.withAnswers r n).issue e' = .next t' ∧ t.SameButAnswers t' := by
  by_cases hs : s.faultCode = 0#8
  · exact ⟨e, e', State.issue_running hs, State.issue_running hs, h⟩
  · exact ⟨s, s.withAnswers r n, State.issue_halted hs, State.issue_halted hs, s.sameButAnswers_withAnswers r n⟩

/-- The checks of READ_PAYLOAD come before its exchange and see no answer; past them every byte can be de-framed, and no CRC
is checked (R114, R118). -/
theorem readMessage_withAnswers (len : Byte) (s : State) :
    (∃ f, readMessage len s = .error f ∧ readMessage len (s.withAnswers r n) = .error f) ∨
      ∃ l l', readMessage len s = .ok l ∧ readMessage len (s.withAnswers r n) = .ok l' := by
  cases ha : s.alen with
  | none => exact .inl ⟨_, readMessage_unwritten ha, readMessage_unwritten ha⟩
  | some a =>
    by_cases long : maxData < len.toNat
    · exact .inl ⟨_, readMessage_frameLen ha long, readMessage_frameLen ha long⟩
    have fits := not_lt.1 long
    by_cases outside : 0 < len.toNat ∧ nScramble - 1 < a.toNat + len.toNat - 1
    · obtain ⟨pos, beyond⟩ := outside
      exact .inl ⟨_, readMessage_scrambleIndex ha fits pos beyond, readMessage_scrambleIndex ha fits pos beyond⟩
    have inside : 0 < len.toNat → a.toNat + len.toNat - 1 ≤ nScramble - 1 := fun pos =>
      not_lt.1 fun beyond => outside ⟨pos, beyond⟩
    obtain ⟨l, hl, -⟩ := readMessage_ok ha fits inside
    obtain ⟨l', hl', -⟩ := readMessage_ok (s := s.withAnswers r n) ha fits inside
    exact .inr ⟨l, l', hl, hl'⟩

theorem setTxAddr_withAnswers (a : List Byte) (s : State) :
    (setTxAddr a s).SameButAnswers (setTxAddr a (s.withAnswers r n)) :=
  .ite (State.exchange_withAnswers r n _ _ _ _) (State.sameButAnswers_withAnswers r n _)

theorem setRxAddr_withAnswers (a : List Byte) (s : State) :
    (setRxAddr a s).SameButAnswers (setRxAddr a (s.withAnswers r n)) :=
  .ite (State.exchange_withAnswers r n _ _ _ _) (State.sameButAnswers_withAnswers r n _)

theorem writePayload_withAnswers (m : List Byte) (s : State) :
    (writePayload m s).SameButAnswers (writePayload m (s.withAnswers r n)) := by
  have same : writeFrame m (s.withAnswers r n) = writeFrame m s := rfl
  unfold writePayload
  rw [same]
  cases writeFrame m s with
  | ok f => exact s.exchange_withAnswers r n _ f 0
  | error f => exact (s.raise f _).sameButAnswers_withAnswers r n

theorem readPayload_withAnswers (len : Byte) (s : State) :
    (readPayload len s).SameButAnswers (readPayload len (s.withAnswers r n)) := by
  unfold readPayload
  obtain ⟨f, h, h'⟩ | ⟨l, l', h, h'⟩ := readMessage_withAnswers r n len s
  · rw [h, h']
    exact (s.raise f _).sameButAnswers_withAnswers r n
  · rw [h, h']
    have written : State.SameButAnswers { s with rxMsg := some l } { s.withAnswers r n with rxMsg := some l' } :=
      ⟨rfl, rfl, rfl⟩
    exact written.exchange _ _ _

/-- Two executions with different answers: in each arm the effect is an exchange, or draws nothing. -/
theorem exec_withAnswers (i : Instr) (s : State) :
    ∃ t t', exec i s = .next t ∧ exec i (s.withAnswers r n) = .next t' ∧ t.SameButAnswers t' := by
  cases i
  case setTxAddr a => exact State.issue_withAnswers r n (setTxAddr_withAnswers r n a s)
  case setRxAddr a => exact State.issue_withAnswers r n (setRxAddr_withAnswers r n a s)
  case writePayload m => exact State.issue_withAnswers r n (writePayload_withAnswers r n m s)
  case readPayload len => exact State.issue_withAnswers r n (readPayload_withAnswers r n len s)
  case configure | busWreg | busWpayload | busRpayload =>
    exact State.issue_withAnswers r n (State.exchange_withAnswers r n _ _ _ _)
  case ckYd717 d =>
    exact State.issue_withAnswers r n
      (.ite (State.sameButAnswers_withAnswers r n _) (State.sameButAnswers_withAnswers r n _))
  all_goals exact State.issue_withAnswers r n (State.sameButAnswers_withAnswers r n _)

end Answers

/-- Settles O49: both executions answer, and each register named is outside what the answers reach. -/
theorem answersRaiseNothing : Obligations.AnswersRaiseNothing := by
  intro i s r n
  obtain ⟨t, t', ht, ht', frame, rxMsg_valid, busLog_length⟩ := exec_withAnswers r n i s
  refine ⟨t, t', ht, ht', ?_, ?_, ?_, ?_, ?_, ?_, ?_, ?_, ?_, rxMsg_valid, busLog_length⟩
  all_goals rw [frame]

end Sys2Proof.Machine
end

section
/-! PROOFS. The statements of 70_reset_and_hazards.md: waiting (R232), the reset input (R230), and the boot order in which
WRITE_PAYLOAD runs (R233). -/

namespace Sys2Proof.Machine

/-! ### Waiting and reset (R230, R232) -/

/-- Settles O7: the fetch of an empty port is idle. -/
theorem idleWaits : Obligations.IdleWaits := by
  intro s hp
  simp only [step, fetch, hp]

/-- Settles O10: the state is what the reset input leaves, an address register byte by byte. -/
theorem resetInput : Obligations.ResetInput := by
  intro s p hp
  refine ⟨_, step_reset hp, rfl, rfl, rfl, rfl, fun i => ?_, fun i => ?_, rfl, rfl, rfl, rfl, rfl, rfl, rfl⟩
  · exact Vector.getElem_replicate i.isLt
  · exact Vector.getElem_replicate i.isLt

/-! ### The boot order (R233) -/

/-- What SET_TX_ADDR and CONFIGURE, in either order, have made of a block `s` that was not halted, when `p` is left to take. -/
structure State.Booted (s : State) (a : List Byte) (b : Byte) (p : List Input) (v : State) : Prop where
  faultCode : v.faultCode = 0#8
  config : v.config = s.config
  port : v.port = p
  alen : v.alen = some (addrLenByte a)
  txAddr : v.txAddr = addrRegs a
  crcOn : v.crcOn = some (decide (b &&& s.config.crcEnBit ≠ 0#8))
  busLog_length : v.busLog.length = s.busLog.length + 2

section Boot

variable {s v : State} {a m : List Byte} {b : Byte} {p : List Input}

/-- A step of a block that is not halted runs the instruction whose spelling is next. -/
theorem step_encode {i : Instr} (hs : s.faultCode = 0#8) (hp : s.port = .wire (encode i) :: p) (hi : i.WellFormed) :
    step s = exec i { s with port := p } :=
  step_decoded hs hp (decodeEncode i hi)

/-- The step that takes an address of 3 to 5 bytes (R110). -/
theorem step_setTxAddr (hs : s.faultCode = 0#8) (hp : s.port = .wire (encode (.setTxAddr a)) :: p)
    (range : 3 ≤ a.length ∧ a.length ≤ 5) :
    step s = .next (State.exchange { s with port := p, txAddr := addrRegs a, alen := some (addrLenByte a) }
      (wregOpcode s.config.regTxAddr) (pre5 s.config a.length) 0) := by
  have short : a.length ≤ 255 := range.2.trans (by decide)
  exact (step_encode hs hp (decide_eq_true short)).trans ((Framer.setTxAddr.2 { s with port := p } a hs).1 range)

/-- The step that takes a configuration byte (R112). -/
theorem step_configure (hs : s.faultCode = 0#8) (hp : s.port = .wire (encode (.configure b)) :: p) :
    step s = .next (State.exchange
      { s with
        port := p
        crcOn := some (decide (b &&& s.config.crcEnBit ≠ 0#8))
        cfgMirror := some (delegatedConfig s.config b) }
      (wregOpcode s.config.regConfig) [delegatedConfig s.config b] 0) :=
  (step_encode hs hp rfl).trans (Framer.configure.2 { s with port := p } b hs)

theorem boot_address_first (hs : s.faultCode = 0#8) (range : 3 ≤ a.length ∧ a.length ≤ 5)
    (hp : s.port = .wire (encode (.setTxAddr a)) :: .wire (encode (.configure b)) :: p) :
    ∃ u v, step s = .next u ∧ step u = .next v ∧ s.Booted a b p v :=
  ⟨_, _, step_setTxAddr hs hp range, step_configure hs rfl, hs, rfl, rfl, rfl, rfl, rfl, by simp⟩

theorem boot_configure_first (hs : s.faultCode = 0#8) (range : 3 ≤ a.length ∧ a.length ≤ 5)
    (hp : s.port = .wire (encode (.configure b)) :: .wire (encode (.setTxAddr a)) :: p) :
    ∃ u v, step s = .next u ∧ step u = .next v ∧ s.Booted a b p v :=
  ⟨_, _, step_configure hs hp, step_setTxAddr hs rfl range, hs, rfl, rfl, rfl, rfl, rfl, by simp⟩

/-- A frame of at most 31 bytes reads no XOR-out entry above 26 (R113 check 6). -/
theorem xorout_entry_of_fits {alen plen : Nat} (lo : 3 ≤ alen) (fits : frameLength alen plen true ≤ maxData) :
    alen - alenMin + plen < 27 := by
  simp only [frameLength, maxData, if_true] at fits
  unfold alenMin
  omega

/-- After the boot order a payload that fits passes every check of WRITE_PAYLOAD (R113, R233). -/
theorem State.Booted.writeReady (h : s.Booted a b p v) (range : 3 ≤ a.length ∧ a.length ≤ 5)
    (entries : 27 ≤ nXorout s.config)
    (fits : frameLength a.length m.length (decide (b &&& s.config.crcEnBit ≠ 0#8)) ≤ maxData) :
    v.WriteReady m.length a.length a (decide (b &&& s.config.crcEnBit ≠ 0#8)) where
  alen_eq := ⟨_, h.alen, addrLenByte_toNat ((addrLenOk_iff a).2 range)⟩
  tx_length := rfl
  tx_eq := fun i hi => ⟨a[i], List.getElem?_eq_getElem hi, by simp [h.txAddr, addrRegs, hi, hi.trans_le range.2]⟩
  crc_eq := h.crcOn
  fits := fits
  scramble_in := fun _ => (Nat.sub_le _ 1).trans (scramble_in_of_fits fits)
  xorout_in := fun on => by
    rw [on] at fits
    rw [h.config]
    exact (xorout_entry_of_fits range.1 fits).trans_le entries

end Boot

/-- Settles O59: either order boots the block, and a booted block passes every check of WRITE_PAYLOAD. -/
theorem bootThenWrite : Obligations.BootThenWrite := by
  intro s a m b first hs lo hi entries fits hp
  have boot : ∃ u v, step s = .next u ∧ step u = .next v ∧ s.Booted a b [.wire (encode (.writePayload m))] v := by
    cases first with
    | true => exact boot_address_first hs ⟨lo, hi⟩ hp
    | false => exact boot_configure_first hs ⟨lo, hi⟩ hp
  obtain ⟨u, v, step_s, step_u, booted⟩ := boot
  obtain ⟨f, built, sent⟩ := writePayloadSends.2 { v with port := [] } m a a.length _ booted.faultCode
    { booted.writeReady ⟨lo, hi⟩ entries fits with }
  have short : m.length ≤ 255 := by
    unfold frameLength at fits
    omega
  refine ⟨u, v, _, _, step_s, step_u,
    (step_encode booted.faultCode booted.port (decide_eq_true short)).trans sent, booted.faultCode, rfl,
    List.getLast?_concat, rfl, ?_, booted.config ▸ built⟩
  simp [booted.busLog_length]

end Sys2Proof.Machine
end
